-- ==== Sys2Proof/Word.lean ====
section
/-! DEFINITION. The word of the register window and the small fixed sets of names the whole model uses: channels, gain
levels, gain selectors, calibration pairs (00_scope.md R2, R3 and section 6). -/

namespace Sys2Proof

/-- A register, a command word or a Transfer Word: `WORD_W = 32` bits (R3). -/
abbrev Word := BitVec 32

/-- A Fixed-Point Coefficient as a register holds it: `COEF_W = 18` bits (R3, R87). -/
abbrev Coef := BitVec 18

/-- A Sample Value: `SAMPLE_W = 14` bits (R3). -/
abbrev Sample := BitVec 14

/-- A legal channel index; the block has `NCH = 2` channels (R2). -/
abbrev Channel := Fin 2

/-- The index `k = 2*ch + g` of a (channel, gain) pair (00_scope.md section 6). -/
abbrev Pair := Fin 4

/-- The two gain levels (R2). -/
inductive Gain where
  | low
  | high
deriving DecidableEq, Repr, Inhabited

/-- What the `GSEL` field of a format-G command word may name: a gain, or the channel's current Gain Mode (R60, R66).
The fourth value of the field, 3, is reserved and names nothing (R64). -/
inductive GainSel where
  | low
  | high
  | cur
deriving DecidableEq, Repr

end Sys2Proof
end

