-- ==== Sys2Proof/Syntax.lean ====
section
/-! DEFINITION. The ten commands of `opcode_table.json` (30_encoding.md R62), one constructor a row. `CH` stays an
unsigned 8-bit field: 2 to 255 are encodable and are answered by `InvalidChannel` when the command runs (R61, R65). -/

namespace Sys2Proof

/-- A command. Format N commands carry nothing, format C the channel field, format G the channel field and the gain
selector (R60). -/
inductive Instr where
  | nop
  | cmult (ch : BitVec 8) (gsel : GainSel)
  | cadd (ch : BitVec 8) (gsel : GainSel)
  | v2r (ch : BitVec 8) (gsel : GainSel)
  | pack (ch : BitVec 8)
  | setgain (ch : BitVec 8) (gsel : GainSel)
  | setcal (ch : BitVec 8) (gsel : GainSel)
  | clrcal
  | xlt (ch : BitVec 8) (gsel : GainSel)
  | xltall
deriving DecidableEq, Repr

end Sys2Proof
end

