-- ==== Sys2Proof/WellFormed.lean ====
section
/-! DEFINITION. Which commands have a legal command word: the "legal `GSEL`" column of R62. Format G shares one layout,
and SETGAIN and SETCAL admit LOW and HIGH only. -/

namespace Sys2Proof

/-- SETGAIN and SETCAL refuse `GSEL` = CUR (R62, R64); every other field value a constructor can hold is legal. A
channel index above 1 is well formed as a word: it decodes, and the command answers `InvalidChannel` (R65). -/
def Instr.wellFormed : Instr → Bool
  | .nop => true
  | .cmult _ _ => true
  | .cadd _ _ => true
  | .v2r _ _ => true
  | .pack _ => true
  | .setgain _ gsel => gsel != .cur
  | .setcal _ gsel => gsel != .cur
  | .clrcal => true
  | .xlt _ _ => true
  | .xltall => true

/-- A command with a legal command word. -/
abbrev WellFormed (i : Instr) : Prop := i.wellFormed = true

end Sys2Proof
end

