-- ==== Sys2Proof/Decode.lean ====
section
/-! DEFINITION. Decoding of command words, steps 1 to 3 of R63, and the encoder, both from the layout of R60 and the
opcode map of R62. Decoding reads the word only (R63) and no byte order is involved (R45). -/

namespace Sys2Proof

/-- Why a command word is illegal (R64). Each of them makes the `CMD` write raise `IllegalCommand`. -/
inductive Reject where
  /-- Step 1 of R63: `OP` above 0x09. -/
  | unknownOpcode
  /-- Step 2 of R63: a bit the format marks "zero" is 1. -/
  | reservedBits
  /-- Step 3 of R63: `GSEL` = 3 in a format-G command. -/
  | reservedGsel
  /-- Step 3 of R63: `GSEL` = CUR in SETGAIN or SETCAL. -/
  | curNotAllowed
deriving DecidableEq, Repr

/-- The field `OP`, bits 7:0 (R60). -/
def opField (w : Word) : BitVec 8 := w.extractLsb' 0 8

/-- The field `CH`, bits 15:8 (R60). -/
def chField (w : Word) : BitVec 8 := w.extractLsb' 8 8

/-- The field `GSEL`, bits 17:16 (R60). -/
def gselField (w : Word) : BitVec 2 := w.extractLsb' 16 2

/-- The gain selector a `GSEL` field names (R60); 3 is reserved. -/
def gselOf (g : BitVec 2) : Except Reject GainSel :=
  if g = 0 then .ok .low
  else if g = 1 then .ok .high
  else if g = 2 then .ok .cur
  else .error .reservedGsel

/-- Format N: bits 31:8 are zero (R63 step 2). -/
def formatN (w : Word) (i : Instr) : Except Reject Instr :=
  if w.extractLsb' 8 24 = 0 then .ok i else .error .reservedBits

/-- Format C: bits 31:16 are zero (R63 step 2). -/
def formatC (w : Word) (f : BitVec 8 → Instr) : Except Reject Instr :=
  if w.extractLsb' 16 16 = 0 then .ok (f (chField w)) else .error .reservedBits

/-- Format G: bits 31:18 are zero (R63 step 2) and `GSEL` is not 3 (step 3). -/
def formatG (w : Word) (f : BitVec 8 → GainSel → Instr) : Except Reject Instr :=
  if w.extractLsb' 18 14 = 0 then
    match gselOf (gselField w) with
    | .ok g => .ok (f (chField w) g)
    | .error r => .error r
  else .error .reservedBits

/-- Format G of SETGAIN and SETCAL: `GSEL` must name a gain, so CUR is refused too (R63 step 3). -/
def formatGNamed (w : Word) (f : BitVec 8 → GainSel → Instr) : Except Reject Instr :=
  match formatG w f with
  | .ok i => if gselField w = 2 then .error .curNotAllowed else .ok i
  | .error r => .error r

/-- Decode a command word: steps 1 to 3 of R63 over the opcode map of R62. -/
def decode (w : Word) : Except Reject Instr :=
  match (opField w).toNat with
  | 0x00 => formatN w .nop
  | 0x01 => formatG w .cmult
  | 0x02 => formatG w .cadd
  | 0x03 => formatG w .v2r
  | 0x04 => formatC w .pack
  | 0x05 => formatGNamed w .setgain
  | 0x06 => formatGNamed w .setcal
  | 0x07 => formatN w .clrcal
  | 0x08 => formatG w .xlt
  | 0x09 => formatN w .xltall
  | _ => .error .unknownOpcode

/-- The `GSEL` field of a gain selector (R60). -/
def gselCode : GainSel → BitVec 2
  | .low => 0
  | .high => 1
  | .cur => 2

/-- The opcode of a command (R62). -/
def opcode : Instr → BitVec 8
  | .nop => 0x00
  | .cmult _ _ => 0x01
  | .cadd _ _ => 0x02
  | .v2r _ _ => 0x03
  | .pack _ => 0x04
  | .setgain _ _ => 0x05
  | .setcal _ _ => 0x06
  | .clrcal => 0x07
  | .xlt _ _ => 0x08
  | .xltall => 0x09

/-- A format N word: `OP` in 7:0, the rest zero (R60). -/
def wordN (op : BitVec 8) : Word := op.zeroExtend 32

/-- A format C word: `CH` in 15:8 above `OP`, the rest zero (R60). -/
def wordC (op ch : BitVec 8) : Word := op.zeroExtend 32 ||| (ch.zeroExtend 32 <<< 8)

/-- A format G word: `GSEL` in 17:16 above `CH` and `OP`, the rest zero (R60). -/
def wordG (op ch : BitVec 8) (g : GainSel) : Word :=
  op.zeroExtend 32 ||| (ch.zeroExtend 32 <<< 8) ||| ((gselCode g).zeroExtend 32 <<< 16)

/-- The command word of a command (R60, R62). -/
def encode (i : Instr) : Word :=
  match i with
  | .nop => wordN (opcode i)
  | .cmult ch g => wordG (opcode i) ch g
  | .cadd ch g => wordG (opcode i) ch g
  | .v2r ch g => wordG (opcode i) ch g
  | .pack ch => wordC (opcode i) ch
  | .setgain ch g => wordG (opcode i) ch g
  | .setcal ch g => wordG (opcode i) ch g
  | .clrcal => wordN (opcode i)
  | .xlt ch g => wordG (opcode i) ch g
  | .xltall => wordN (opcode i)

/-- The command word that the low `nbits` bits of `w` give, the bits above them zero. A command is one 32-bit word and
bit 0 is its least significant bit (R60). -/
def tableWord (nbits w : Nat) : Word := BitVec.ofNat 32 (w % 2 ^ nbits)

/-- The command the decoder reads from a word numbered as `opcode_table.json` numbers it; `none` where it refuses. -/
def decodeTableWord (nbits w : Nat) : Option Instr :=
  match decode (tableWord nbits w) with
  | .ok i => some i
  | .error _ => none

end Sys2Proof
end

