-- ==== Sys2Proof/Config.lean ====
section
/-! DEFINITION. The parameters of 00_scope.md section 5 that the spec leaves OPEN, as constants without a value, and the
type of a gain's range constants. The parameters with a value are in `Machine/Params.lean`. -/

namespace Sys2Proof.Config

/-- The full-scale voltages of one gain setting: nominal (`IDEAL[g]`) and measured (`REAL[g]`), both positive exact
rationals (R5, R6). -/
structure Range where
  ideal : ℚ
  real : ℚ
  ideal_pos : 0 < ideal
  real_pos : 0 < real

/-- A positive rational as plain data: `(numPred + 1) / (denPred + 1)`. Every positive rational has this form. -/
structure PosRat where
  numPred : Nat
  denPred : Nat
deriving DecidableEq, Repr, Inhabited

/-- The rational a `PosRat` stands for. -/
def PosRat.val (p : PosRat) : ℚ := ((p.numPred + 1 : Nat) : ℚ) / ((p.denPred + 1 : Nat) : ℚ)

theorem PosRat.val_pos (p : PosRat) : 0 < p.val := by
  unfold PosRat.val
  positivity

/-- `IDEAL[LOW]`: OPEN in the spec (R6, D10), so a constant without a value here (assumption log 5). -/
opaque lowIdeal : PosRat

/-- `REAL[LOW]`: OPEN in the spec (R6, D10), so a constant without a value here (assumption log 5). -/
opaque lowReal : PosRat

/-- The platform base address `BASE` of the window: OPEN (R8, D4). No rule of the block reads it; it only says where on
the platform's bus the window's offset 0 lies (R49; assumption log 6). -/
opaque base : Nat

/-- The two byte orders a platform may use. -/
inductive Endian where
  | little
  | big
deriving DecidableEq, Repr, Inhabited

/-- `BUF_ENDIAN`, the byte order of Transfer Words in a Sample Buffer: OPEN and outside the block (R8, D5). No rule of
the block reads it (assumption log 6). -/
opaque bufEndian : Endian

end Sys2Proof.Config
end

