-- ==== Sys2Proof/Machine/Params.lean ====
section
/-! DEFINITION. The implementation parameters of 00_scope.md section 5 that have a value: the range constants, the lane
table and the range limits. The spec calls the source's literals unaudited (R4, C2), so they are definitions of their
own, which an audit can change without touching a rule. -/

namespace Sys2Proof.Machine

/-- `IDEAL[HIGH] = 5` and `REAL[HIGH] = 133/25`, exact (R5, D9). -/
def highRange : Config.Range where
  ideal := 5
  real := 133 / 25
  ideal_pos := by norm_num
  real_pos := by norm_num

/-- The open LOW range constants (R6). -/
def lowRange : Config.Range where
  ideal := Config.lowIdeal.val
  real := Config.lowReal.val
  ideal_pos := Config.lowIdeal.val_pos
  real_pos := Config.lowReal.val_pos

/-- "`idealRange`/`realRange` are fixed per-gain constants" (R5, R6). -/
def gainRange : Gain → Config.Range
  | .low => lowRange
  | .high => highRange

/-- The range constants of a block: the commands that use them take them as an argument ("named parameters the model
takes as arguments", R6), and the machine's own commands take `gainRange`. -/
abbrev Ranges := Gain → Config.Range

/-- `FULLSCALE[g] = IDEAL[g]` (R7). -/
def fullScale (r : Config.Range) : ℚ := r.ideal

/-- `PACK_LSB`: the lane table, channel 0 at bit 4, channel 1 at bit 2 (R4, C2). -/
def packLsb : Vector Nat 2 := #v[4, 2]

/-- `COEF_MIN` (00_scope.md section 5, D7). -/
def coefMin : Int := -131072

/-- `COEF_MAX` (00_scope.md section 5, D7). -/
def coefMax : Int := 131071

/-- `RAW_MIN` (00_scope.md section 5). -/
def rawMin : Int := -8192

/-- `RAW_MAX` (00_scope.md section 5). -/
def rawMax : Int := 8191

/-- The bus address of a window offset (R40: "byte offsets 0x00 to 0x7F from a platform base address `BASE`"). -/
def busAddress (off : BitVec 7) : Nat := Config.base + off.toNat

end Sys2Proof.Machine
end

