-- ==== Sys2Proof/Machine/State.lean ====
section
/-! DEFINITION. The state of the machine: the block's architectural state (10_state.md R10), the stimuli that wait at its
port and its reset input, the port's last answer, and the reasons a step can stop. -/

namespace Sys2Proof.Machine

/-- "The whole architectural state of the block is the following, and nothing else" (R10): one field per row of its
table, in its order. Indexed elements are vectors, over channels (`GAIN`) or pairs `k = 2*ch + g`. -/
structure Block where
  /-- `OPA`, operand A (R11). -/
  opa : Word
  /-- `OPB`, operand B (R11). -/
  opb : Word
  /-- `RESULT`, result of the last result-producing command (R11). -/
  result : Word
  /-- `RVALID`: `RESULT` holds a good result (R13). -/
  rvalid : Bool
  /-- `LASTERR`: error code of the most recent command, 0 if none (R14). -/
  lasterr : BitVec 4
  /-- `ERRFLAGS`: one sticky bit per error code; bits 0, 4 and 5 are hardwired to 0 (R15). -/
  errflags : BitVec 8
  /-- `GAIN[ch]`: the gain mode of a channel (R17). -/
  gain : Vector Gain 2
  /-- `CAL_CG[k]`: binary32 pattern of `cg` (R18). -/
  calCg : Vector Word 4
  /-- `CAL_CA[k]`: binary32 pattern of `ca` (R18). -/
  calCa : Vector Word 4
  /-- `CALDEF[k]`: record entry `k` is defined (R19). -/
  caldef : Vector Bool 4
  /-- `COEF_MULT[k]`: multiplicative Fixed-Point Coefficient, two's complement (R20). -/
  coefMult : Vector Coef 4
  /-- `COEF_ADD[k]`: additive Fixed-Point Coefficient, two's complement (R20). -/
  coefAdd : Vector Coef 4
  /-- `COEFV[k]`: `COEF_*[k]` were translated from the current record entry `k` (R21). -/
  coefv : Vector Bool 4
deriving DecidableEq, Repr

/-- Every element at the value of R25's table. -/
def Block.reset : Block where
  opa := 0
  opb := 0
  result := 0
  rvalid := false
  lasterr := 0
  errflags := 0
  gain := #v[.low, .low]
  calCg := #v[0, 0, 0, 0]
  calCa := #v[0, 0, 0, 0]
  caldef := #v[false, false, false, false]
  coefMult := #v[0, 0, 0, 0]
  coefAdd := #v[0, 0, 0, 0]
  coefv := #v[false, false, false, false]

/-- What can reach the block from outside: an access of the host at a window offset (R40, R42, R43), or an edge of the
reset input (R170). `width` is the access's width in bits; only 32 is answered with data or effect (R44), and the data
of a write counts only then. -/
inductive HostEvent where
  | read (width : Nat) (off : BitVec 7)
  | write (width : Nat) (off : BitVec 7) (data : Word)
  | assertReset
  | releaseReset
deriving DecidableEq, Repr

/-- The port's answer to an access. -/
inductive Response where
  /-- A read of a mapped register: its read value (R42). -/
  | data (v : Word)
  /-- A write to a mapped register was taken (R43). -/
  | done
  /-- The access was refused with an error response; there is no data (R44). -/
  | accessError
  /-- The reset input was asserted: the access was not accepted (R170). -/
  | notAccepted
deriving DecidableEq, Repr

/-- The machine: the block, the level of its reset input, the host's accesses and reset edges that are still to arrive
(oldest first), and the answer to the most recent access. The last three are the model's own fields (assumption log 1
and 3). -/
structure State where
  block : Block
  /-- The reset input is asserted (R170). -/
  resetLine : Bool
  /-- What the host will do next, in order of arrival (R47, R179). -/
  pending : List HostEvent
  /-- The port's answer to the most recent access, if there was one since reset. -/
  response : Option Response
deriving DecidableEq, Repr

/-- The machine right after reset: the block as R25 says, the reset input released, nothing pending and nothing
answered (R170, R171: "After reset the block waits for the first host access"). -/
def State.reset : State where
  block := Block.reset
  resetLine := false
  pending := []
  response := none

/-- Why the machine stops with a fault: there is no such reason. The block's errors end a command and the block goes on
(R146, R147), a malformed access is answered with an error response (R44), and "the block cannot hang, cannot deadlock
and cannot refuse a well-formed access" (R179). Safe: nothing is cut short. -/
inductive Fault where
deriving DecidableEq, Repr

/-- Why an instruction has no meaning in the model. -/
inductive Refusal where
  /-- Raised by an arm of `exec` whose instruction is not modelled yet; no arm is such. Safe: the model stops. -/
  | notModelled (mnemonic : String)
deriving DecidableEq, Repr

/-- The outcomes of a step of this machine. -/
abbrev Outcome := Host.Outcome State Fault Refusal

end Sys2Proof.Machine
end

