-- ==== Sys2Proof/Machine/Flags.lean ====
section
/-! DEFINITION. The error codes and every flag computation of the spec: `LASTERR` codes (R141), the sticky flags and
their write-1-to-clear (R15), and the packed read views `STATUS`, `ERRFLAGS` and `GAIN` (R15 to R17). -/

namespace Sys2Proof.Machine

/-- The error kinds of R141. `transferStartFailure` and `deviceNotReady` are numbered and never raised by this block. -/
inductive ErrorKind where
  | calibrationUnavailable
  | calibrationRangeError
  | invalidChannel
  | transferStartFailure
  | deviceNotReady
  | illegalCommand
  | invalidOperand
deriving DecidableEq, Repr

/-- The value `LASTERR` takes and the bit index in `ERRFLAGS` (R141). -/
def errorCode : ErrorKind → BitVec 4
  | .calibrationUnavailable => 1
  | .calibrationRangeError => 2
  | .invalidChannel => 3
  | .transferStartFailure => 4
  | .deviceNotReady => 5
  | .illegalCommand => 6
  | .invalidOperand => 7

/-- The implemented bits of `ERRFLAGS`: 1, 2, 3, 6 and 7; bits 0, 4 and 5 are hardwired to 0 (R15). -/
def errflagsMask : BitVec 8 := 0b11001110

/-- `ERRFLAGS[c] <- 1` (R146). -/
def setErrflag (c : BitVec 4) (flags : BitVec 8) : BitVec 8 := flags ||| (1#8 <<< c.toNat)

/-- Write-1-to-clear: `ERRFLAGS <- ERRFLAGS & ~v[7:0]` (R15, R43). -/
def clearErrflags (v : Word) (flags : BitVec 8) : BitVec 8 := flags &&& ~~~ (v.extractLsb' 0 8)

/-- The value of `ERRFLAGS` as it is read, its hardwired bits 0 (R15). -/
def errflagsView (b : Block) : BitVec 8 := b.errflags &&& errflagsMask

/-- Four one-bit flags side by side, flag 0 lowest. -/
def flags4 (v : Vector Bool 4) : BitVec 4 :=
  (BitVec.ofBool v[0]).zeroExtend 4 ||| ((BitVec.ofBool v[1]).zeroExtend 4 <<< 1) |||
    ((BitVec.ofBool v[2]).zeroExtend 4 <<< 2) ||| ((BitVec.ofBool v[3]).zeroExtend 4 <<< 3)

/-- The `STATUS` register (R16): `LASTERR` in 3:0, `RVALID` in 4, `CALDEF` in 11:8, `COEFV` in 15:12, the rest 0. -/
def statusWord (b : Block) : Word :=
  b.lasterr.zeroExtend 32 ||| ((BitVec.ofBool b.rvalid).zeroExtend 32 <<< 4) |||
    ((flags4 b.caldef).zeroExtend 32 <<< 8) ||| ((flags4 b.coefv).zeroExtend 32 <<< 12)

/-- The bit that encodes a gain level: LOW = 0, HIGH = 1 (R17, D6). -/
def gainBit : Gain → BitVec 1
  | .low => 0
  | .high => 1

/-- The `GAIN` register: `GAIN[0]` at bit 0, `GAIN[1]` at bit 1, the rest 0 (R17). -/
def gainWord (b : Block) : Word :=
  (gainBit b.gain[0]).zeroExtend 32 ||| ((gainBit b.gain[1]).zeroExtend 32 <<< 1)

end Sys2Proof.Machine
end

