-- ==== Sys2Proof/Machine/Operands.lean ====
section
/-! DEFINITION. The operand forms of a command: the channel field, the gain selector, the pair index, and the widths a
computed integer takes when it reaches a register (R61, R65, R66, R87). -/

namespace Sys2Proof.Machine

/-- Channel decode, step 4 of R63: 0 and 1 select a channel, 2 to 255 raise `InvalidChannel` (R65, R144). -/
def channelOf (ch : BitVec 8) : Except ErrorKind Channel :=
  if h : ch.toNat < 2 then .ok ⟨ch.toNat, h⟩ else .error .invalidChannel

/-- `gsel_resolve(gsel, ch)`: the gain a format-G command uses; CUR reads the channel's current Gain Mode (R66). -/
def gselResolve (gsel : GainSel) (c : Channel) (b : Block) : Gain :=
  match gsel with
  | .low => .low
  | .high => .high
  | .cur => b.gain[c]

/-- The gain a SETGAIN or SETCAL word names. CUR is illegal there, step 3 of R63 (R64, R145); the decoder refuses such a
word already, so this is the same answer for a term that no word encodes. -/
def namedGain (gsel : GainSel) : Except ErrorKind Gain :=
  match gsel with
  | .low => .ok .low
  | .high => .ok .high
  | .cur => .error .illegalCommand

/-- `k = 2*ch + g`, with LOW = 0 and HIGH = 1 (00_scope.md section 6). -/
def pairIndex (c : Channel) (g : Gain) : Pair :=
  match c, g with
  | 0, .low => 0
  | 0, .high => 1
  | 1, .low => 2
  | 1, .high => 3

/-- `g = k mod 2` (R103). -/
def pairGain (k : Pair) : Gain := if k.val % 2 = 0 then .low else .high

/-- `sext_32(n) = n mod 2^32`, the form of a coefficient or raw sample in `RESULT` (R87, R90). -/
def sext32 (n : Int) : Word := BitVec.ofInt 32 n

/-- `n mod 2^18`, the form of a coefficient in its register (R87). -/
def coefField (n : Int) : Coef := BitVec.ofInt 18 n

end Sys2Proof.Machine
end

