-- ==== Sys2Proof/Machine/Numerics.lean ====
section
/-! DEFINITION. The pure functions of 40_numerics.md: binary32 operands (R80), exact rational arithmetic (R81), the two
roundings (R82, R83), `F_mult` (R85), `F_add` (R86) and `F_v2r` (R88). Nothing here reads or writes state. -/

namespace Sys2Proof.Machine

/-- The value of a binary32 pattern (R80). A NaN's sign and payload are ignored. -/
inductive FVal where
  | finite (q : ℚ)
  | posInf
  | negInf
  | nan
deriving DecidableEq, Repr

/-- The exponent field `b[30:23]` (R80). -/
def expField (b : Word) : Nat := (b.extractLsb' 23 8).toNat

/-- The fraction field `b[22:0]` (R80). -/
def fracField (b : Word) : Nat := (b.extractLsb' 0 23).toNat

/-- `(-1)^s` with `s = b[31]` (R80). -/
def signFactor (b : Word) : ℚ := if b.msb then -1 else 1

/-- `fval(b)`: infinities, NaN, zero and subnormals (not flushed), normal numbers (R80). -/
def fval (b : Word) : FVal :=
  if expField b = 255 then
    if fracField b = 0 then (if b.msb then .negInf else .posInf) else .nan
  else if expField b = 0 then
    .finite (signFactor b * fracField b * (2 : ℚ) ^ (-149 : Int))
  else
    .finite (signFactor b * (2 ^ 23 + fracField b) * (2 : ℚ) ^ ((expField b : Int) - 150))

/-- Round half away from zero (R82). -/
def rhaz (q : ℚ) : Int := if 0 ≤ q then (q + 1 / 2).floor else -(-q + 1 / 2).floor

/-- Truncation toward zero (R83). -/
def trunc (q : ℚ) : Int := if 0 ≤ q then q.floor else -(-q).floor

/-- The 18-bit signed range guard: out of range is an error, never wrapped, masked or saturated (R85, R86, R143). -/
def guardCoef (n : Int) : Except ErrorKind Int :=
  if n < coefMin ∨ n > coefMax then .error .calibrationRangeError else .ok n

/-- `F_mult` under given range constants (R85). -/
def fMultWith (r : Config.Range) (cgb : Word) : Except ErrorKind Int :=
  match fval cgb with
  | .finite cg =>
    if 1 + cg = 0 then .error .calibrationRangeError
    else guardCoef (rhaz ((r.ideal / r.real) / (1 + cg) * 65536))
  | .posInf | .negInf | .nan => .error .calibrationUnavailable

/-- `F_mult(cgb, g)` (R85). -/
def fMult (cgb : Word) (g : Gain) : Except ErrorKind Int := fMultWith (gainRange g) cgb

/-- `F_add` under given range constants (R86). -/
def fAddWith (r : Config.Range) (cab cgb : Word) : Except ErrorKind Int :=
  match fval cab, fval cgb with
  | .finite ca, .finite cg =>
    if 1 + cg = 0 then .error .calibrationRangeError
    else guardCoef (rhaz ((-ca * 131072) / (r.real * (1 + cg))))
  | _, _ => .error .calibrationUnavailable

/-- `F_add(cab, cgb, g)` (R86). -/
def fAdd (cab cgb : Word) (g : Gain) : Except ErrorKind Int := fAddWith (gainRange g) cab cgb

/-- `F_v2r` under given range constants: clamp at or beyond full scale, linear and truncated inside, NaN refused
(R88). -/
def fV2rWith (r : Config.Range) (vb : Word) : Except ErrorKind Int :=
  match fval vb with
  | .nan => .error .invalidOperand
  | .posInf => .ok rawMax
  | .negInf => .ok rawMin
  | .finite v =>
    if v ≥ fullScale r then .ok rawMax
    else if v ≤ -fullScale r then .ok rawMin
    else .ok (trunc (v * 8192 / fullScale r))

/-- `F_v2r(vb, g)` (R88). -/
def fV2r (vb : Word) (g : Gain) : Except ErrorKind Int := fV2rWith (gainRange g) vb

end Sys2Proof.Machine
end

