-- ==== Sys2Proof/Machine/Ops.lean ====
section
/-! DEFINITION. The named operations over the block's registers, and the one shared operation that takes an error (the
block's exception, R146). There is no return from an error: "there is no trap return command" (R147). The block has no
memory but its register window (R40), whose accesses are in `Machine/Window.lean`. -/

namespace Sys2Proof.Machine

/-- `raise E`: `LASTERR` takes the code, its sticky flag is set, `RESULT` and `RVALID` are cleared, and every other
element keeps its value; nothing is saved and control goes nowhere (R146). -/
def raise (e : ErrorKind) (b : Block) : Block :=
  { b with
    lasterr := errorCode e
    errflags := setErrflag (errorCode e) b.errflags
    result := 0
    rvalid := false }

/-- The end of a command that ran on `b` (R63 steps 5 and 6, R140): either its state writes take effect together with
`LASTERR <- 0`, or it raises one error and writes nothing of its own. -/
def settle (b : Block) : Except ErrorKind Block → Block
  | .ok b' => { b' with lasterr := 0 }
  | .error e => raise e b

/-- Run one command, given as what it makes of the block or the error it ends with, on the block of a state. All its
writes appear at once (R46). -/
def runCommand (s : State) (f : Block → Except ErrorKind Block) : Outcome :=
  .next { s with block := settle s.block (f s.block) }

/-- `RESULT <- v`, `RVALID <- 1` (R13). -/
def putResult (v : Word) (b : Block) : Block := { b with result := v, rvalid := true }

/-- `GAIN[c] <- g` (R131). -/
def putGain (c : Channel) (g : Gain) (b : Block) : Block := { b with gain := b.gain.set c g }

/-- Deposit one record entry: both halves, `CALDEF[k] <- 1`, `COEFV[k] <- 0` (R101). -/
def putCal (k : Pair) (cg ca : Word) (b : Block) : Block :=
  { b with
    calCg := b.calCg.set k cg
    calCa := b.calCa.set k ca
    caldef := b.caldef.set k true
    coefv := b.coefv.set k false }

/-- Empty the record: every pattern 0, `CALDEF` and `COEFV` 0; the coefficients keep their value (R102). -/
def clearCal (b : Block) : Block :=
  { b with
    calCg := #v[0, 0, 0, 0]
    calCa := #v[0, 0, 0, 0]
    caldef := #v[false, false, false, false]
    coefv := #v[false, false, false, false] }

/-- Write both coefficient registers of a pair together, `COEFV[k] <- 1` (R104). -/
def putCoef (k : Pair) (m a : Int) (b : Block) : Block :=
  { b with
    coefMult := b.coefMult.set k (coefField m)
    coefAdd := b.coefAdd.set k (coefField a)
    coefv := b.coefv.set k true }

/-- What the block presents to the correction unit (R22). -/
structure CorrectionPort where
  coefMult : Vector Coef 4
  coefAdd : Vector Coef 4
  gain : Vector Gain 2
deriving DecidableEq, Repr

/-- "The outputs equal the registers at all times" (R22). -/
def correctionPort (b : Block) : CorrectionPort where
  coefMult := b.coefMult
  coefAdd := b.coefAdd
  gain := b.gain

/-- The reset input is asserted: every element takes its reset value, whatever was going on (R170). The pending events
are the environment's and stay; the port has answered nothing since reset. -/
def assertReset (s : State) : State :=
  { s with block := Block.reset, resetLine := true, response := none }

/-- The reset input is released: "at the moment it is released, every state element has the value of" R25 (R170). A
release of an input that is not asserted is no edge and changes nothing. -/
def releaseReset (s : State) : State :=
  if s.resetLine then { s with block := Block.reset, resetLine := false, response := none } else s

/-- Record the port's answer to the access being handled. -/
def respond (r : Response) (s : State) : State := { s with response := some r }

end Sys2Proof.Machine
end

