-- ==== Sys2Proof/Machine/Convert.lean ====
section
/-! DEFINITION. The commands of 43_convert_gain.md: NOP, V2R, SETGAIN. For each, what it makes of the block or the error it
ends with, and the command itself. -/

namespace Sys2Proof.Machine

/-- NOP: nothing but the `LASTERR <- 0` of every completed command (R132). -/
def nopOp (b : Block) : Except ErrorKind Block := .ok b

/-- NOP (R132). -/
def execNop (s : State) : Outcome := runCommand s nopOp

/-- V2R: the voltage in `OPA` to a raw sample in `RESULT`, with the full scale of the selected gain (R130, R88). -/
def v2rOp (rs : Ranges) (ch : BitVec 8) (gsel : GainSel) (b : Block) : Except ErrorKind Block := do
  let c ← channelOf ch
  let n ← fV2rWith (rs (gselResolve gsel c b)) b.opa
  .ok (putResult (sext32 n) b)

/-- V2R (R130). -/
def execV2r (ch : BitVec 8) (gsel : GainSel) (s : State) : Outcome := runCommand s (v2rOp gainRange ch gsel)

/-- SETGAIN: the gain mode of one channel; no operand register is read and nothing is retranslated (R131). -/
def setgainOp (ch : BitVec 8) (gsel : GainSel) (b : Block) : Except ErrorKind Block := do
  let g ← namedGain gsel
  let c ← channelOf ch
  .ok (putGain c g b)

/-- SETGAIN (R131). -/
def execSetgain (ch : BitVec 8) (gsel : GainSel) (s : State) : Outcome := runCommand s (setgainOp ch gsel)

end Sys2Proof.Machine
end

