-- ==== Sys2Proof/Machine/Pack.lean ====
section
/-! DEFINITION. The sample packing unit of 42_pack.md: the packing function, its inverse, and PACK. -/

namespace Sys2Proof.Machine

/-- The Transfer Word of a channel: the low 14 bits of the value at the channel's lane, the rest 0 (R120). -/
def packLane (c : Channel) (v : Word) : Word :=
  (v.extractLsb' 0 14).zeroExtend 32 <<< packLsb[c]

/-- `F_pack(ch, v)` (R120). -/
def fPack (ch : BitVec 8) (v : Word) : Except ErrorKind Word := do
  let c ← channelOf ch
  .ok (packLane c v)

/-- `unpack(ch, w) = w[PACK_LSB[ch] + 13 : PACK_LSB[ch]]` (R123). -/
def unpack (c : Channel) (w : Word) : Sample := w.extractLsb' packLsb[c] 14

/-- PACK: the Transfer Word of the sample in `OPA`, into `RESULT`; every 32-bit `OPA` is accepted (R121). -/
def packOp (ch : BitVec 8) (b : Block) : Except ErrorKind Block := do
  let t ← fPack ch b.opa
  .ok (putResult t b)

/-- PACK (R121). -/
def execPack (ch : BitVec 8) (s : State) : Outcome := runCommand s (packOp ch)

end Sys2Proof.Machine
end

