-- ==== Sys2Proof/Machine/Translate.lean ====
section
/-! DEFINITION. The calibration translator of 41_translate.md: CMULT, CADD, SETCAL, CLRCAL, XLT, XLTALL. For each, what it
makes of the block or the error it ends with, and the command itself. -/

namespace Sys2Proof.Machine

/-- CMULT: the multiplicative coefficient of the `cg` in `OPA`, into `RESULT`; `OPB` is ignored (R106). -/
def cmultOp (rs : Ranges) (ch : BitVec 8) (gsel : GainSel) (b : Block) : Except ErrorKind Block := do
  let c ← channelOf ch
  let n ← fMultWith (rs (gselResolve gsel c b)) b.opa
  .ok (putResult (sext32 n) b)

/-- CMULT (R106). -/
def execCmult (ch : BitVec 8) (gsel : GainSel) (s : State) : Outcome := runCommand s (cmultOp gainRange ch gsel)

/-- CADD: the additive coefficient of the `ca` in `OPA` and the `cg` in `OPB`, into `RESULT` (R107). -/
def caddOp (rs : Ranges) (ch : BitVec 8) (gsel : GainSel) (b : Block) : Except ErrorKind Block := do
  let c ← channelOf ch
  let n ← fAddWith (rs (gselResolve gsel c b)) b.opa b.opb
  .ok (putResult (sext32 n) b)

/-- CADD (R107). -/
def execCadd (ch : BitVec 8) (gsel : GainSel) (s : State) : Outcome := runCommand s (caddOp gainRange ch gsel)

/-- SETCAL: deposit the record entry (`cg` in `OPA`, `ca` in `OPB`) of one pair, unvalidated (R101). -/
def setcalOp (ch : BitVec 8) (gsel : GainSel) (b : Block) : Except ErrorKind Block := do
  let g ← namedGain gsel
  let c ← channelOf ch
  .ok (putCal (pairIndex c g) b.opa b.opb b)

/-- SETCAL (R101). -/
def execSetcal (ch : BitVec 8) (gsel : GainSel) (s : State) : Outcome := runCommand s (setcalOp ch gsel)

/-- CLRCAL: calibration absent (R102). -/
def clrcalOp (b : Block) : Except ErrorKind Block := .ok (clearCal b)

/-- CLRCAL (R102). -/
def execClrcal (s : State) : Outcome := runCommand s clrcalOp

/-- `translate_pair(k)`: both coefficients of record entry `k`, or one error; unavailable wins over range (R103). -/
def translatePairIn (rs : Ranges) (b : Block) (k : Pair) : Except ErrorKind (Int × Int) :=
  if b.caldef[k] = false then .error .calibrationUnavailable
  else
    let rm := fMultWith (rs (pairGain k)) b.calCg[k]
    let ra := fAddWith (rs (pairGain k)) b.calCa[k] b.calCg[k]
    if rm = .error .calibrationUnavailable ∨ ra = .error .calibrationUnavailable then
      .error .calibrationUnavailable
    else
      match rm, ra with
      | .ok m, .ok a => .ok (m, a)
      | .error e, _ => .error e
      | .ok _, .error e => .error e

/-- `translate_pair(k)` with the machine's own range constants (R103). -/
def translatePair (b : Block) (k : Pair) : Except ErrorKind (Int × Int) := translatePairIn gainRange b k

/-- XLT: translate one pair into its two coefficient registers, both or neither (R104). -/
def xltOp (rs : Ranges) (ch : BitVec 8) (gsel : GainSel) (b : Block) : Except ErrorKind Block := do
  let c ← channelOf ch
  let k := pairIndex c (gselResolve gsel c b)
  let p ← translatePairIn rs b k
  .ok (putCoef k p.1 p.2 b)

/-- XLT (R104). -/
def execXlt (ch : BitVec 8) (gsel : GainSel) (s : State) : Outcome := runCommand s (xltOp gainRange ch gsel)

/-- XLTALL: translate the four pairs in the order 0, 1, 2, 3 before anything is written; the lowest failing pair reports,
otherwise all eight registers are written together (R105). -/
def xltallOp (rs : Ranges) (b : Block) : Except ErrorKind Block := do
  let p0 ← translatePairIn rs b 0
  let p1 ← translatePairIn rs b 1
  let p2 ← translatePairIn rs b 2
  let p3 ← translatePairIn rs b 3
  .ok (putCoef 3 p3.1 p3.2 (putCoef 2 p2.1 p2.2 (putCoef 1 p1.1 p1.2 (putCoef 0 p0.1 p0.2 b))))

/-- XLTALL (R105). -/
def execXltall (s : State) : Outcome := runCommand s (xltallOp gainRange)

end Sys2Proof.Machine
end

