-- ==== Sys2Proof/Machine/Dispatch.lean ====
section
/-! DEFINITION. Step 5 of R63: every command runs by its own rule. -/

namespace Sys2Proof.Machine

def exec (i : Instr) (s : State) : Host.Outcome State Fault Refusal :=
  match i with
  | .nop => Sys2Proof.Machine.execNop s
  | .cmult ch gsel => Sys2Proof.Machine.execCmult ch gsel s
  | .cadd ch gsel => Sys2Proof.Machine.execCadd ch gsel s
  | .v2r ch gsel => Sys2Proof.Machine.execV2r ch gsel s
  | .pack ch => Sys2Proof.Machine.execPack ch s
  | .setgain ch gsel => Sys2Proof.Machine.execSetgain ch gsel s
  | .setcal ch gsel => Sys2Proof.Machine.execSetcal ch gsel s
  | .clrcal => Sys2Proof.Machine.execClrcal s
  | .xlt ch gsel => Sys2Proof.Machine.execXlt ch gsel s
  | .xltall => Sys2Proof.Machine.execXltall s

end Sys2Proof.Machine
end

