-- ==== Sys2Proof/Machine/Window.lean ====
section
/-! DEFINITION. The register window of 20_memory.md: the register map (R41), what a read returns (R42) and what a write
stores (R43). The write to `CMD`, which runs a command, is in `Machine/Port.lean`. -/

namespace Sys2Proof.Machine

/-- The mapped registers of R41. -/
inductive Reg where
  | cmd
  | status
  | errflags
  | opa
  | opb
  | result
  | gain
  | calCg (k : Pair)
  | calCa (k : Pair)
  | coefMult (k : Pair)
  | coefAdd (k : Pair)
deriving DecidableEq, Repr

/-- The offset of a register (R41): the record from 0x20, the coefficients from 0x40, eight bytes a pair. -/
def regOffset : Reg → BitVec 7
  | .cmd => 0x00
  | .status => 0x04
  | .errflags => 0x08
  | .opa => 0x0C
  | .opb => 0x10
  | .result => 0x14
  | .gain => 0x18
  | .calCg k => BitVec.ofNat 7 (0x20 + 8 * k.val)
  | .calCa k => BitVec.ofNat 7 (0x24 + 8 * k.val)
  | .coefMult k => BitVec.ofNat 7 (0x40 + 8 * k.val)
  | .coefAdd k => BitVec.ofNat 7 (0x44 + 8 * k.val)

/-- The register at an offset of the window; `none` for a reserved offset (0x1C, 0x60 to 0x7C) and for one that is not a
multiple of 4 (R41, R44). -/
def regAt (off : BitVec 7) : Option Reg :=
  match off.toNat with
  | 0x00 => some .cmd
  | 0x04 => some .status
  | 0x08 => some .errflags
  | 0x0C => some .opa
  | 0x10 => some .opb
  | 0x14 => some .result
  | 0x18 => some .gain
  | 0x20 => some (.calCg 0)
  | 0x24 => some (.calCa 0)
  | 0x28 => some (.calCg 1)
  | 0x2C => some (.calCa 1)
  | 0x30 => some (.calCg 2)
  | 0x34 => some (.calCa 2)
  | 0x38 => some (.calCg 3)
  | 0x3C => some (.calCa 3)
  | 0x40 => some (.coefMult 0)
  | 0x44 => some (.coefAdd 0)
  | 0x48 => some (.coefMult 1)
  | 0x4C => some (.coefAdd 1)
  | 0x50 => some (.coefMult 2)
  | 0x54 => some (.coefAdd 2)
  | 0x58 => some (.coefMult 3)
  | 0x5C => some (.coefAdd 3)
  | _ => none

/-- The register an access reaches: 32-bit accesses of mapped offsets only (R44). -/
def accessReg (width : Nat) (off : BitVec 7) : Option Reg := if width = 32 then regAt off else none

/-- The read value of a register (R41); `CMD` reads 0 (R23), coefficients are zero-extended (R20). -/
def readReg (b : Block) : Reg → Word
  | .cmd => 0
  | .status => statusWord b
  | .errflags => (errflagsView b).zeroExtend 32
  | .opa => b.opa
  | .opb => b.opb
  | .result => b.result
  | .gain => gainWord b
  | .calCg k => b.calCg[k]
  | .calCa k => b.calCa[k]
  | .coefMult k => (b.coefMult[k]).zeroExtend 32
  | .coefAdd k => (b.coefAdd[k]).zeroExtend 32

/-- What a write stores: `OPA` and `OPB` take the value, `ERRFLAGS` is write-1-to-clear, read-only registers ignore it
(R43). A write to `CMD` stores nothing either: it runs a command, which is not this function's part. -/
def writeReg (b : Block) (v : Word) : Reg → Block
  | .errflags => { b with errflags := clearErrflags v b.errflags }
  | .opa => { b with opa := v }
  | .opb => { b with opb := v }
  | .cmd | .status | .result | .gain | .calCg _ | .calCa _ | .coefMult _ | .coefAdd _ => b

end Sys2Proof.Machine
end

