-- ==== Sys2Proof/Machine/Port.lean ====
section
/-! DEFINITION. The host port (R42 to R46) and the reset input (R170): how the block takes one event. -/

namespace Sys2Proof.Machine

/-- Execute a command word (R63): an illegal word raises `IllegalCommand` (steps 1 to 3), any other runs its command. -/
def execWord (w : Word) (s : State) : Outcome :=
  match decode w with
  | .ok i => exec i s
  | .error _ => .next { s with block := raise .illegalCommand s.block }

/-- `HostRead(off)` (R42), or the access error of R44. -/
def hostRead (width : Nat) (off : BitVec 7) (s : State) : Outcome :=
  match accessReg width off with
  | some r => .next (respond (.data (readReg s.block r)) s)
  | none => .next (respond .accessError s)

/-- `HostWrite(off, v)` (R43), or the access error of R44. A write to `CMD` runs the whole command before the next access
is taken (R46). -/
def hostWrite (width : Nat) (off : BitVec 7) (v : Word) (s : State) : Outcome :=
  match accessReg width off with
  | some .cmd => execWord v (respond .done s)
  | some r => .next (respond .done { s with block := writeReg s.block v r })
  | none => .next (respond .accessError s)

/-- Take one event. "Host accesses during reset are not accepted" (R170). -/
def takeEvent (e : HostEvent) (s : State) : Outcome :=
  match e with
  | .read width off => if s.resetLine then .next (respond .notAccepted s) else hostRead width off s
  | .write width off v => if s.resetLine then .next (respond .notAccepted s) else hostWrite width off v s
  | .assertReset => .next (assertReset s)
  | .releaseReset => .next (releaseReset s)

/-- The oldest pending event leaves the queue and is taken; with none pending "no state changes by itself" (R179). -/
def takeNext (s : State) : Outcome :=
  match s.pending with
  | [] => .next s
  | e :: rest => takeEvent e { s with pending := rest }

/-- The write of a command word to `CMD`, which is what executes it (R12, R43). -/
def cmdWrite (w : Word) : HostEvent := .write 32 (regOffset .cmd) w

/-- The state in which the very next step executes the command word `w`: its `CMD` write is the oldest pending event and
the reset input is released, so that the port takes it. -/
def placeCommand (w : Word) (s : State) : State :=
  { s with resetLine := false, pending := cmdWrite w :: s.pending }

end Sys2Proof.Machine
end

