-- ==== Sys2Proof/Machine/Step.lean ====
section
/-! DEFINITION. One step of the machine: it takes the next host access or reset edge, or, when there is none, stands
still (R46, R47, R179). -/

namespace Sys2Proof.Machine

/-- One step. It has three outcomes by its type; the block of this spec always answers a next state (R179). -/
def step (s : State) : Host.Outcome State Fault Refusal := takeNext s

/-- `s` with the command word of a table row placed so that the very next step executes it: the block fetches nothing
(R12), so the word is placed as the host's pending write to `CMD` (assumption log 4). -/
def State.withFetchWord (s : State) (nbits w : Nat) : State := placeCommand (tableWord nbits w) s

end Sys2Proof.Machine
end

