-- ==== Sys2Proof/Machine/Script.lean ====
section
/-! DEFINITION. The statements (R68) and pseudo-statements (R69) in which the spec writes command sequences, and the host
accesses they stand for. -/

namespace Sys2Proof.Machine

/-- A statement (R68). `gsel` is a number 0 to 3, so that a reserved encoding can be written. -/
inductive Stmt where
  | wr (reg : Reg) (v : Word)
  | rd (reg : Reg)
  | nop
  | cmult (ch : BitVec 8) (gsel : BitVec 2)
  | cadd (ch : BitVec 8) (gsel : BitVec 2)
  | v2r (ch : BitVec 8) (gsel : BitVec 2)
  | pack (ch : BitVec 8)
  | setgain (ch : BitVec 8) (gain : Gain)
  | setcal (ch : BitVec 8) (gain : Gain)
  | clrcal
  | xlt (ch : BitVec 8) (gsel : BitVec 2)
  | xltall
deriving DecidableEq, Repr

/-- `op | ch<<8 | gsel<<16` (R68). -/
def stmtWord (op : Word) (ch : BitVec 8) (gsel : BitVec 2) : Word :=
  op ||| (ch.zeroExtend 32 <<< 8) ||| (gsel.zeroExtend 32 <<< 16)

/-- The number a gain name stands for in a statement (R68). -/
def stmtGain (g : Gain) : BitVec 2 := (gainBit g).zeroExtend 2

/-- The host access a statement is (the right column of R68's table). -/
def stmtEvent : Stmt → HostEvent
  | .wr reg v => .write 32 (regOffset reg) v
  | .rd reg => .read 32 (regOffset reg)
  | .nop => cmdWrite 0x00000000
  | .cmult ch gsel => cmdWrite (stmtWord 0x01 ch gsel)
  | .cadd ch gsel => cmdWrite (stmtWord 0x02 ch gsel)
  | .v2r ch gsel => cmdWrite (stmtWord 0x03 ch gsel)
  | .pack ch => cmdWrite (stmtWord 0x04 ch 0)
  | .setgain ch gain => cmdWrite (stmtWord 0x05 ch (stmtGain gain))
  | .setcal ch gain => cmdWrite (stmtWord 0x06 ch (stmtGain gain))
  | .clrcal => cmdWrite 0x00000007
  | .xlt ch gsel => cmdWrite (stmtWord 0x08 ch gsel)
  | .xltall => cmdWrite 0x00000009

/-- A pseudo-statement (R69), named after the source's upward operations. -/
inductive Pseudo where
  | pack (ch : BitVec 8) (v : Word)
  | cmult (cg : Word) (ch : BitVec 8) (gsel : BitVec 2)
  | cadd (ca cg : Word) (ch : BitVec 8) (gsel : BitVec 2)
  | v2r (volts : Word) (ch : BitVec 8) (gsel : BitVec 2)
  | setgain (ch : BitVec 8) (gain : Gain)
  | setcal (ch : BitVec 8) (gain : Gain) (cg ca : Word)
  | loadcal (cg ca : Vector Word 4)
  | clrerr
deriving DecidableEq, Repr

/-- The expansion of `setcal` (R69). -/
def expandSetcal (ch : BitVec 8) (gain : Gain) (cg ca : Word) : List Stmt :=
  [.wr .opa cg, .wr .opb ca, .setcal ch gain, .rd .status]

/-- The fixed expansion of a pseudo-statement (R69). -/
def expand : Pseudo → List Stmt
  | .pack ch v => [.wr .opa v, .pack ch, .rd .status, .rd .result]
  | .cmult cg ch gsel => [.wr .opa cg, .cmult ch gsel, .rd .status, .rd .result]
  | .cadd ca cg ch gsel => [.wr .opa ca, .wr .opb cg, .cadd ch gsel, .rd .status, .rd .result]
  | .v2r volts ch gsel => [.wr .opa volts, .v2r ch gsel, .rd .status, .rd .result]
  | .setgain ch gain => [.setgain ch gain, .rd .status]
  | .setcal ch gain cg ca => expandSetcal ch gain cg ca
  | .loadcal cg ca =>
    expandSetcal 0 .low cg[0] ca[0] ++ expandSetcal 0 .high cg[1] ca[1] ++
      expandSetcal 1 .low cg[2] ca[2] ++ expandSetcal 1 .high cg[3] ca[3] ++ [.xltall, .rd .status]
  | .clrerr => [.wr .errflags 0x000000FF]

/-- Queue the accesses of a list of statements behind what is already pending (R47). -/
def queue (script : List Stmt) (s : State) : State :=
  { s with pending := s.pending ++ script.map stmtEvent }

end Sys2Proof.Machine
end

