-- ==== Sys2Proof/Safety.lean ====
section
/-! DEFINITION. The predicates that claims about this block use: the invariants of R26, and what a host may rely on
(R21, R147, R174). -/

namespace Sys2Proof.Safety

open Sys2Proof.Machine

/-- R26 (b): a pair marked translated has a defined, finite record entry, and its registers hold what `F_mult` and
`F_add` give for it. -/
def InStep (b : Block) (k : Pair) : Prop :=
  b.coefv[k] = true →
    b.caldef[k] = true ∧
    ∃ m a, fMult b.calCg[k] (pairGain k) = .ok m ∧ fAdd b.calCa[k] b.calCg[k] (pairGain k) = .ok a ∧
      b.coefMult[k] = coefField m ∧ b.coefAdd[k] = coefField a

/-- R26 (c): each coefficient register holds its reset value 0 or a value some successful translation produced. -/
def CoefFromTranslation (b : Block) (k : Pair) : Prop :=
  (b.coefMult[k] = 0 ∨ ∃ cgb m, fMult cgb (pairGain k) = .ok m ∧ b.coefMult[k] = coefField m) ∧
  (b.coefAdd[k] = 0 ∨ ∃ cab cgb a, fAdd cab cgb (pairGain k) = .ok a ∧ b.coefAdd[k] = coefField a)

/-- R26 (d): the hardwired bits 0, 4 and 5 of `ERRFLAGS` are 0. -/
def ErrflagsHardwired (b : Block) : Prop :=
  b.errflags[0] = false ∧ b.errflags[4] = false ∧ b.errflags[5] = false

/-- R26 (e): `LASTERR` is one of 0, 1, 2, 3, 6, 7. -/
def LasterrLegal (b : Block) : Prop := b.lasterr ∈ ([0, 1, 2, 3, 6, 7] : List (BitVec 4))

/-- The state invariants of R26: (b), (c), (d), (e). Its (a) speaks of the command that last wrote `RESULT`, which no
state element records (R23), and is stated of steps. -/
structure BlockInv (b : Block) : Prop where
  inStep : ∀ k, InStep b k
  fromTranslation : ∀ k, CoefFromTranslation b k
  errflags : ErrflagsHardwired b
  lasterr : LasterrLegal b

/-- The invariant of the whole machine: R26 of the block, and R170's "while it is asserted ... every state element has
the value of" R25. -/
structure Inv (s : State) : Prop where
  block : BlockInv s.block
  held : s.resetLine = true → s.block = Block.reset

/-- `RESULT` is meaningful for the command that was meant to produce it (R174). -/
abbrev ResultUsable (b : Block) : Prop := b.rvalid = true ∧ b.lasterr = 0

/-- "No fault recorded" (R147). -/
abbrev NoErrorRecorded (b : Block) : Prop := errflagsView b = 0

/-- All four pairs are translated from the record as it stands: the duty of a (re)load is met (R21, R100, R177). -/
abbrev LoadComplete (b : Block) : Prop := ∀ k : Pair, b.coefv[k] = true

/-- The host's last access was not refused (R44): a safe run has this after every step. -/
abbrev AccessAccepted (s : State) : Prop := s.response ≠ some .accessError ∧ s.response ≠ some .notAccepted

/-- The commands that write `RESULT` and `RVALID` when they complete: the last column of R11's table. -/
def producesResult : Instr → Bool
  | .cmult _ _ => true
  | .cadd _ _ => true
  | .v2r _ _ => true
  | .pack _ => true
  | .nop => false
  | .setgain _ _ => false
  | .setcal _ _ => false
  | .clrcal => false
  | .xlt _ _ => false
  | .xltall => false

/-- Run commands one after the other, as their `CMD` writes would be taken with nothing in between (R12, R46). -/
def execAll : List Instr → State → Outcome
  | [], s => .next s
  | i :: rest, s =>
    match exec i s with
    | .next t => execAll rest t
    | .fault r => .fault r
    | .refused r => .refused r

/-- The illegal command words, as R64 lists them, over the word as a number. -/
def IllegalWord (w : Word) : Prop :=
  let op := w.toNat % 256
  let gsel := w.toNat / 65536 % 4
  9 < op ∨
  (op ∈ [0, 7, 9] ∧ w.toNat / 256 ≠ 0) ∨
  (op = 4 ∧ w.toNat / 65536 ≠ 0) ∨
  (op ∈ [1, 2, 3, 5, 6, 8] ∧ (w.toNat / 262144 ≠ 0 ∨ gsel = 3)) ∨
  (op ∈ [5, 6] ∧ gsel = 2)

/-- The malformed accesses, as R44 lists them, over the offset as a number. -/
def MalformedAccess (width : Nat) (off : BitVec 7) : Prop :=
  width ≠ 32 ∨ off.toNat % 4 ≠ 0 ∨ off.toNat = 0x1C ∨ 0x60 ≤ off.toNat

/-- The next event of `s` is the execution of the command `i`: its word is written to `CMD` and the port takes it. -/
def NextCommand (s : State) (i : Instr) : Prop :=
  s.resetLine = false ∧ ∃ w rest, s.pending = cmdWrite w :: rest ∧ decode w = .ok i

/-- The next event of `s` is an edge of the reset input. -/
def NextReset (s : State) : Prop :=
  ∃ rest, s.pending = .assertReset :: rest ∨ s.pending = .releaseReset :: rest

end Sys2Proof.Safety
end

