-- ==== Sys2Proof/Certificates/Slice0/Obligations.lean ====
section
/-! DEFINITION. The statements about the model, for the provers. Each formalises rules of the spec; its docstring names
them. Where a clause rests on a choice of the model, the docstring names the entry of the assumption log. -/

open Sys2Proof Sys2Proof.Machine Sys2Proof.Safety

/-! ### Command words -/

/-- R60, R62: decoding the command word of a well-formed command gives the command back, every field at every value. -/
def Obligations.DecodeOfEncode : Prop :=
  ∀ i : Instr, WellFormed i → decode (encode i) = .ok i

/-- R60, R62: each legal word has one meaning, and is the word the encoder writes for it. -/
def Obligations.EncodeOfDecode : Prop :=
  ∀ (w : Word) (i : Instr), decode w = .ok i → WellFormed i ∧ encode i = w

/-- R64: exactly the listed words are illegal, each raises `IllegalCommand` (code 6) with no other effect, and the only
word that is a no-operation is 0. -/
def Obligations.IllegalWordsRaiseIllegalCommand : Prop :=
  ∀ w : Word,
    ((∃ r, decode w = .error r) ↔ IllegalWord w) ∧
    (decode w = .ok .nop ↔ w = 0) ∧
    ∀ (s : State) (rest : List HostEvent),
      s.resetLine = false → s.pending = cmdWrite w :: rest → IllegalWord w →
        step s = .next
          { s with
            pending := rest
            response := some .done
            block :=
              { s.block with
                lasterr := 6
                errflags := s.block.errflags ||| 0x40
                result := 0
                rvalid := false } }

/-- R62: the example words of the opcode map, and words of R64 and the test vectors that are refused. -/
def Obligations.SpecWordsDecode : Prop :=
  decode 0x00010001 = .ok (.cmult 0 .high) ∧ decode 0x00000102 = .ok (.cadd 1 .low) ∧
  decode 0x00020103 = .ok (.v2r 1 .cur) ∧ decode 0x00000104 = .ok (.pack 1) ∧
  decode 0x00010105 = .ok (.setgain 1 .high) ∧ decode 0x00000006 = .ok (.setcal 0 .low) ∧
  decode 0x00000007 = .ok .clrcal ∧ decode 0x00010108 = .ok (.xlt 1 .high) ∧
  decode 0x00000009 = .ok .xltall ∧ decode 0x00000000 = .ok .nop ∧
  decode 0x0000000A = .error .unknownOpcode ∧ decode 0x00030001 = .error .reservedGsel ∧
  decode 0x00050001 = .error .reservedBits ∧ decode 0x00020005 = .error .curNotAllowed

/-- R12, R43, R46: a write of a legal word to `CMD` executes its command, and around it the step only takes the access off
the queue and answers it. -/
def Obligations.StepRunsTheDecodedCommand : Prop :=
  ∀ (s : State) (w : Word) (i : Instr) (rest : List HostEvent),
    s.resetLine = false → s.pending = cmdWrite w :: rest → decode w = .ok i →
      step s = exec i { s with pending := rest, response := some .done }

/-- R68: the words of the command statements are the words of the commands they name. -/
def Obligations.StatementsWriteTheirCommandWords : Prop :=
  ∀ (ch : BitVec 8) (g : Gain) (gsel : GainSel),
    stmtEvent .nop = cmdWrite (encode .nop) ∧ stmtEvent .clrcal = cmdWrite (encode .clrcal) ∧
    stmtEvent .xltall = cmdWrite (encode .xltall) ∧ stmtEvent (.pack ch) = cmdWrite (encode (.pack ch)) ∧
    stmtEvent (.cmult ch (gselCode gsel)) = cmdWrite (encode (.cmult ch gsel)) ∧
    stmtEvent (.cadd ch (gselCode gsel)) = cmdWrite (encode (.cadd ch gsel)) ∧
    stmtEvent (.v2r ch (gselCode gsel)) = cmdWrite (encode (.v2r ch gsel)) ∧
    stmtEvent (.xlt ch (gselCode gsel)) = cmdWrite (encode (.xlt ch gsel)) ∧
    (namedGain gsel = .ok g →
      stmtEvent (.setgain ch g) = cmdWrite (encode (.setgain ch gsel)) ∧
      stmtEvent (.setcal ch g) = cmdWrite (encode (.setcal ch gsel)))

/-! ### Reset and invariants -/

/-- R25: the value of every state element after reset, and R16's reset value of `STATUS`. -/
def Obligations.ResetValues : Prop :=
  let b := State.reset.block
  b.opa = 0 ∧ b.opb = 0 ∧ b.result = 0 ∧ b.rvalid = false ∧ b.lasterr = 0 ∧ b.errflags = 0 ∧
  (∀ c : Channel, b.gain[c] = .low) ∧
  (∀ k : Pair, b.calCg[k] = 0 ∧ b.calCa[k] = 0 ∧ b.caldef[k] = false ∧
    b.coefMult[k] = 0 ∧ b.coefAdd[k] = 0 ∧ b.coefv[k] = false) ∧
  statusWord b = 0

/-- R26, R170: the invariant holds at reset. -/
def Obligations.ResetSatisfiesInvariant : Prop := Inv State.reset

/-- R26 (b) to (e), R170: every step keeps the invariant: a pair marked translated is in step with a defined, finite
record entry; every coefficient is 0 or a translation's; the hardwired flags stay 0; `LASTERR` stays legal; and while the
reset input is asserted the block holds its reset values. -/
def Obligations.StepKeepsInvariant : Prop :=
  ∀ s t : State, Inv s → step s = .next t → Inv t

/-- R170: a pulse of the reset input brings any machine to the reset state, and an access between its edges is not
accepted and changes nothing. That the input has two edges in the event queue is the model's form (assumption log 3). -/
def Obligations.ResetPulseRestoresResetState : Prop :=
  ∀ (s : State) (rest : List HostEvent),
    (s.pending = .assertReset :: .releaseReset :: rest →
      Host.Core.run core 2 s = .next { State.reset with pending := rest }) ∧
    (∀ (w : Nat) (off : BitVec 7) (v : Word) (e : HostEvent),
      (e = .read w off ∨ e = .write w off v) → s.pending = .assertReset :: e :: rest →
        Host.Core.run core 2 s = .next
          { block := Block.reset, resetLine := true, pending := rest, response := some .notAccepted })

/-! ### The register window -/

/-- R41, R42: what a read of each operand, result, record and coefficient register returns, and that it changes nothing
else; `CMD` reads 0 (R23). -/
def Obligations.HostReadOfDataRegisters : Prop :=
  ∀ (s : State) (rest : List HostEvent),
    let reads := fun (off : BitVec 7) (v : Word) =>
      step { s with resetLine := false, pending := .read 32 off :: rest } =
        .next { s with resetLine := false, pending := rest, response := some (.data v) }
    reads 0x00 0 ∧ reads 0x0C s.block.opa ∧ reads 0x10 s.block.opb ∧ reads 0x14 s.block.result ∧
    ∀ k : Pair,
      reads (BitVec.ofNat 7 (0x20 + 8 * k.val)) s.block.calCg[k] ∧
      reads (BitVec.ofNat 7 (0x24 + 8 * k.val)) s.block.calCa[k] ∧
      reads (BitVec.ofNat 7 (0x40 + 8 * k.val)) (BitVec.ofNat 32 s.block.coefMult[k].toNat) ∧
      reads (BitVec.ofNat 7 (0x44 + 8 * k.val)) (BitVec.ofNat 32 s.block.coefAdd[k].toNat)

/-- R16: the fields of `STATUS`, its zero bits, that a write to it is ignored, and its value after reset. -/
def Obligations.StatusReadsItsFields : Prop :=
  ∀ (s : State) (rest : List HostEvent),
    (∃ v : Word,
      step { s with resetLine := false, pending := .read 32 0x04 :: rest } =
        .next { s with resetLine := false, pending := rest, response := some (.data v) } ∧
      v.extractLsb' 0 4 = s.block.lasterr ∧ v.getLsbD 4 = s.block.rvalid ∧ v.extractLsb' 5 3 = 0 ∧
      (∀ k : Pair, v.getLsbD (8 + k.val) = s.block.caldef[k] ∧ v.getLsbD (12 + k.val) = s.block.coefv[k]) ∧
      v.extractLsb' 16 16 = 0) ∧
    (∀ d : Word,
      step { s with resetLine := false, pending := .write 32 0x04 d :: rest } =
        .next { s with resetLine := false, pending := rest, response := some .done }) ∧
    step { State.reset with pending := .read 32 0x04 :: rest } =
      .next { State.reset with pending := rest, response := some (.data 0) }

/-- R15, R17, R41: `ERRFLAGS` reads its implemented bits with bits 0, 4 and 5 as 0 (so, under the invariant, the register
itself, zero-extended), and `GAIN` reads the two gain modes with bits 31:2 as 0. -/
def Obligations.ErrflagsAndGainRead : Prop :=
  ∀ (s : State) (rest : List HostEvent), ∃ f g : Word,
    step { s with resetLine := false, pending := .read 32 0x08 :: rest } =
      .next { s with resetLine := false, pending := rest, response := some (.data f) } ∧
    step { s with resetLine := false, pending := .read 32 0x18 :: rest } =
      .next { s with resetLine := false, pending := rest, response := some (.data g) } ∧
    (∀ n : Fin 8, f.getLsbD n.val = (n.val ∈ [1, 2, 3, 6, 7] ∧ s.block.errflags.getLsbD n.val = true : Bool)) ∧
    f.extractLsb' 8 24 = 0 ∧
    (Inv s → f = BitVec.ofNat 32 s.block.errflags.toNat) ∧
    g.getLsbD 0 = (s.block.gain[(0 : Channel)] == .high) ∧
    g.getLsbD 1 = (s.block.gain[(1 : Channel)] == .high) ∧ g.extractLsb' 2 30 = 0

/-- R42: no read of any register or offset, of any width, whatever follows it, changes anything but the port's answer; and
the same read again gives the same answer. -/
def Obligations.ReadsHaveNoSideEffect : Prop :=
  ∀ (s : State) (width : Nat) (off : BitVec 7) (rest : List HostEvent),
    s.pending = .read width off :: rest →
      ∃ t, step s = .next t ∧ t = { s with pending := rest, response := t.response } ∧
        ∀ rest', rest = .read width off :: rest' → step t = .next { t with pending := rest' }

/-- R43: what a write to each mapped offset does: `CMD` executes the word, `ERRFLAGS` is write-1-to-clear, `OPA` and `OPB`
store, and the read-only registers ignore it. -/
def Obligations.HostWriteEffects : Prop :=
  ∀ (s : State) (v : Word) (rest : List HostEvent),
    let writes := fun (off : BitVec 7) (b : Block) =>
      step { s with resetLine := false, pending := .write 32 off v :: rest } =
        .next { block := b, resetLine := false, pending := rest, response := some .done }
    step { s with resetLine := false, pending := .write 32 0x00 v :: rest } =
      execWord v { s with resetLine := false, pending := rest, response := some .done } ∧
    writes 0x08 { s.block with errflags := s.block.errflags &&& ~~~ (v.extractLsb' 0 8) } ∧
    writes 0x0C { s.block with opa := v } ∧
    writes 0x10 { s.block with opb := v } ∧
    ∀ off : BitVec 7,
      (off = 0x04 ∨ off = 0x14 ∨ off = 0x18 ∨
        (off.toNat % 4 = 0 ∧ 0x20 ≤ off.toNat ∧ off.toNat ≤ 0x5C)) → writes off s.block

/-- R44, R179: an access at a reserved offset, at an offset that is no multiple of 4, or of a width other than 32 bits is
answered with an access error and changes nothing; every other access is answered otherwise. That the machine goes on
after an access error, with the error as the port's response, is the model's form of R44 (assumption log 2). -/
def Obligations.MalformedAccessesAreRefused : Prop :=
  ∀ (s : State) (width : Nat) (off : BitVec 7) (v : Word) (e : HostEvent) (rest : List HostEvent),
    (e = .read width off ∨ e = .write width off v) → s.resetLine = false → s.pending = e :: rest →
      (MalformedAccess width off →
        step s = .next { s with pending := rest, response := some .accessError }) ∧
      (¬ MalformedAccess width off →
        ∃ t, step s = .next t ∧ t.pending = rest ∧ t.resetLine = false ∧ AccessAccepted t)

/-- R46: the state after a sequence of events does not depend on the events that follow it. -/
def Obligations.LaterAccessesDoNotAffectEarlierOnes : Prop :=
  ∀ (s t : State) (xs ys zs : List HostEvent),
    Host.Core.run core xs.length { s with pending := xs ++ ys } = .next t →
      t.pending = ys ∧
      Host.Core.run core xs.length { s with pending := xs ++ zs } = .next { t with pending := zs }

/-- R179: from every state the block takes every pending event, one a step, and is then quiescent. -/
def Obligations.EveryPendingEventIsTaken : Prop :=
  ∀ s : State, ∃ t : State,
    Host.Core.run core s.pending.length s = .next t ∧ t.pending = [] ∧
    ∀ n, Host.Core.run core n t = .next t

/-! ### Errors -/

/-- R146: a command, and the execution of any word written to `CMD`, either completes with `LASTERR` 0, or raises one
error of the codes R141 says this block raises, which writes `LASTERR`, one sticky flag, `RESULT` and `RVALID` and nothing
else. -/
def Obligations.CommandCompletesOrRaisesOneError : Prop :=
  ∀ s : State,
    let endsWell := fun (o : Outcome) =>
      (∃ t, o = .next t ∧ t.block.lasterr = 0 ∧ t.block.errflags = s.block.errflags) ∨
      (∃ c : BitVec 4, c ∈ ([1, 2, 3, 6, 7] : List (BitVec 4)) ∧
        o = .next
          { s with
            block :=
              { s.block with
                lasterr := c
                errflags := s.block.errflags ||| (1 <<< c.toNat)
                result := 0
                rvalid := false } })
    (∀ i : Instr, endsWell (exec i s)) ∧ ∀ w : Word, endsWell (execWord w s)

/-- R144: every format-C and format-G command whose `CH` is 2 to 255 raises `InvalidChannel` (code 3), whatever the
operands. -/
def Obligations.ChannelOutOfRangeRaises : Prop :=
  ∀ (s : State) (ch : BitVec 8) (gsel : GainSel), 2 ≤ ch.toNat →
    let raises := fun i => exec i s = .next
      { s with
        block :=
          { s.block with
            lasterr := 3
            errflags := s.block.errflags ||| 0x08
            result := 0
            rvalid := false } }
    raises (.cmult ch gsel) ∧ raises (.cadd ch gsel) ∧ raises (.v2r ch gsel) ∧ raises (.pack ch) ∧
    raises (.xlt ch gsel) ∧
    (gsel ≠ .cur → raises (.setgain ch gsel) ∧ raises (.setcal ch gsel))

/-- R13: `RVALID` is set with `RESULT` by CMULT, CADD, V2R and PACK when they complete, cleared by any error, kept by every
other completed command, and no event but a `CMD` write or a reset changes it. -/
def Obligations.RvalidFollowsResultCommands : Prop :=
  (∀ (i : Instr) (s t : State), exec i s = .next t →
    (t.block.lasterr ≠ 0 → t.block.rvalid = false ∧ t.block.result = 0) ∧
    (t.block.lasterr = 0 → producesResult i = true → t.block.rvalid = true) ∧
    (t.block.lasterr = 0 → producesResult i = false →
      t.block.rvalid = s.block.rvalid ∧ t.block.result = s.block.result)) ∧
  ∀ (s t : State), step s = .next t → ¬ NextReset s →
    (∀ w rest, s.pending ≠ cmdWrite w :: rest) →
      t.block.rvalid = s.block.rvalid ∧ t.block.result = s.block.result

/-- R15, R147: a sticky flag that is set stays set through every step but a write to `ERRFLAGS` that names it and a
reset. -/
def Obligations.ErrorFlagsAreSticky : Prop :=
  ∀ (s t : State) (n : Fin 8), step s = .next t → ¬ NextReset s → s.block.errflags.getLsbD n.val = true →
    t.block.errflags.getLsbD n.val = true ∨
    ∃ v rest, s.pending = .write 32 0x08 v :: rest ∧ v.getLsbD n.val = true

/-- R147, R10, R11: neither the error registers nor a previous result block anything: what a command does to every other element,
and the error it reports, do not depend on them. -/
def Obligations.PastErrorsDoNotAffectCommands : Prop :=
  ∀ (i : Instr) (s t t' : State) (e : BitVec 4) (f : BitVec 8) (r : Word) (v : Bool),
    exec i s = .next t →
    exec i { s with block := { s.block with lasterr := e, errflags := f, result := r, rvalid := v } } = .next t' →
      t' = { t with
        block :=
          { t.block with
            errflags := t'.block.errflags
            result := t'.block.result
            rvalid := t'.block.rvalid } } ∧
      (t.block.lasterr ≠ 0 → t'.block.result = 0 ∧ t'.block.rvalid = false) ∧
      (producesResult i = true → t'.block.result = t.block.result ∧ t'.block.rvalid = t.block.rvalid) ∧
      (t.block.lasterr = 0 → producesResult i = false → t'.block.result = r ∧ t'.block.rvalid = v)

/-! ### Who writes what -/

/-- R11, R12: no command writes `OPA` or `OPB`, and none touches the port, the reset input or what the host will do next
(control is not transferred, R67). -/
def Obligations.CommandsLeaveOperandsAlone : Prop :=
  ∀ (i : Instr) (s t : State), exec i s = .next t →
    t.block.opa = s.block.opa ∧ t.block.opb = s.block.opb ∧
    t.resetLine = s.resetLine ∧ t.pending = s.pending ∧ t.response = s.response

/-- R17: a gain mode changes only by SETGAIN of that channel and by reset. -/
def Obligations.GainChangesOnlyBySetgain : Prop :=
  ∀ (s t : State) (c : Channel), step s = .next t → t.block.gain[c] ≠ s.block.gain[c] →
    NextReset s ∨
    ∃ ch gsel, NextCommand s (.setgain ch gsel) ∧ ch.toNat = c.val ∧ namedGain gsel = .ok t.block.gain[c]

/-- R18, R19: a record entry changes only by SETCAL of that pair, which takes both halves from `OPA` and `OPB`, by CLRCAL,
and by reset. -/
def Obligations.RecordChangesOnlyBySetcalAndClrcal : Prop :=
  ∀ (s t : State) (k : Pair), step s = .next t →
    (t.block.calCg[k] ≠ s.block.calCg[k] ∨ t.block.calCa[k] ≠ s.block.calCa[k] ∨
      t.block.caldef[k] ≠ s.block.caldef[k]) →
    NextReset s ∨ NextCommand s .clrcal ∨
    ∃ ch gsel g c, NextCommand s (.setcal ch gsel) ∧ ch.toNat = c.val ∧ namedGain gsel = .ok g ∧
      pairIndex c g = k ∧ t.block.calCg[k] = s.block.opa ∧ t.block.calCa[k] = s.block.opb ∧
      t.block.caldef[k] = true

/-- R20, R108: a coefficient register changes only by XLT of that pair or XLTALL, completed, with the values of `F_mult`
and `F_add` on the record entry, and by reset. -/
def Obligations.CoefficientsChangeOnlyByTranslation : Prop :=
  ∀ (s t : State) (k : Pair), step s = .next t →
    (t.block.coefMult[k] ≠ s.block.coefMult[k] ∨ t.block.coefAdd[k] ≠ s.block.coefAdd[k]) →
    NextReset s ∨
    ((NextCommand s .xltall ∨
      ∃ ch gsel c, NextCommand s (.xlt ch gsel) ∧ ch.toNat = c.val ∧
        pairIndex c (gselResolve gsel c s.block) = k) ∧
    t.block.lasterr = 0 ∧
    ∃ m a, fMult s.block.calCg[k] (pairGain k) = .ok m ∧
      fAdd s.block.calCa[k] s.block.calCg[k] (pairGain k) = .ok a ∧
      t.block.coefMult[k] = coefField m ∧ t.block.coefAdd[k] = coefField a)

/-- R21, R177: `COEFV[k]` rises only by a completed translation of pair `k`, and falls only by SETCAL of pair `k`, CLRCAL
or reset. -/
def Obligations.CoefvFollowsTheRecord : Prop :=
  ∀ (s t : State) (k : Pair), step s = .next t →
    (s.block.coefv[k] = false → t.block.coefv[k] = true →
      t.block.lasterr = 0 ∧
      (NextCommand s .xltall ∨
        ∃ ch gsel c, NextCommand s (.xlt ch gsel) ∧ ch.toNat = c.val ∧
          pairIndex c (gselResolve gsel c s.block) = k)) ∧
    (s.block.coefv[k] = true → t.block.coefv[k] = false →
      NextReset s ∨ NextCommand s .clrcal ∨
      ∃ ch gsel g c, NextCommand s (.setcal ch gsel) ∧ ch.toNat = c.val ∧ namedGain gsel = .ok g ∧
        pairIndex c g = k)

/-! ### The commands -/

/-- R132: NOP, the word 0, writes `LASTERR <- 0` and nothing else, whatever the flags are; a word with opcode 0 and any of
bits 31:8 set is no NOP and raises `IllegalCommand` (code 6, R141); and every other command has, in some state, an effect
on more than `LASTERR`. -/
def Obligations.NopOnlyClearsLasterr : Prop :=
  (∀ s : State, exec .nop s = .next { s with block := { s.block with lasterr := 0 } } ∧ execWord 0 s = exec .nop s) ∧
  (∀ (w : Word) (s : State), w.toNat % 256 = 0 → w ≠ 0 →
    decode w = .error .reservedBits ∧
    execWord w s = .next
      { s with
        block :=
          { s.block with
            lasterr := 6
            errflags := s.block.errflags ||| 0x40
            result := 0
            rvalid := false } }) ∧
  ∀ i : Instr, i ≠ .nop →
    ∃ s t : State, exec i s = .next t ∧ t.block ≠ { s.block with lasterr := t.block.lasterr }

/-- R106, R85: CMULT on a finite `cg` other than -1 whose rounded quotient is in range. -/
def Obligations.CmultResult : Prop :=
  ∀ (s : State) (ch : BitVec 8) (gsel : GainSel) (c : Channel) (g : Gain) (cg : ℚ) (n : Int),
    ch.toNat = c.val → gselResolve gsel c s.block = g → fval s.block.opa = .finite cg → 1 + cg ≠ 0 →
    n = rhaz ((gainRange g).ideal / (gainRange g).real / (1 + cg) * 65536) →
    -131072 ≤ n → n ≤ 131071 →
      exec (.cmult ch gsel) s = .next
        { s with block := { s.block with result := BitVec.ofInt 32 n, rvalid := true, lasterr := 0 } }

/-- R106, R85, R142, R143: CMULT raises `CalibrationUnavailable` (code 1, R141) on a non-finite operand and
`CalibrationRangeError` (code 2) where `1 + cg = 0` or the rounded quotient is out of range. -/
def Obligations.CmultErrors : Prop :=
  ∀ (s : State) (ch : BitVec 8) (gsel : GainSel) (c : Channel) (g : Gain),
    ch.toNat = c.val → gselResolve gsel c s.block = g →
    let raises := fun (code : BitVec 4) (flag : BitVec 8) => exec (.cmult ch gsel) s = .next
      { s with
        block :=
          { s.block with
            lasterr := code
            errflags := s.block.errflags ||| flag
            result := 0
            rvalid := false } }
    ((∀ cg, fval s.block.opa ≠ .finite cg) → raises 1 0x02) ∧
    ∀ (cg : ℚ) (n : Int), fval s.block.opa = .finite cg →
      n = rhaz ((gainRange g).ideal / (gainRange g).real / (1 + cg) * 65536) →
      (1 + cg = 0 ∨ n < -131072 ∨ 131071 < n) → raises 2 0x04

/-- R107, R86: CADD on finite `ca` and `cg`, `cg` other than -1, whose rounded quotient is in range. -/
def Obligations.CaddResult : Prop :=
  ∀ (s : State) (ch : BitVec 8) (gsel : GainSel) (c : Channel) (g : Gain) (ca cg : ℚ) (n : Int),
    ch.toNat = c.val → gselResolve gsel c s.block = g → fval s.block.opa = .finite ca →
    fval s.block.opb = .finite cg → 1 + cg ≠ 0 →
    n = rhaz (-ca * 131072 / ((gainRange g).real * (1 + cg))) →
    -131072 ≤ n → n ≤ 131071 →
      exec (.cadd ch gsel) s = .next
        { s with block := { s.block with result := BitVec.ofInt 32 n, rvalid := true, lasterr := 0 } }

/-- R107, R86, R142, R143: CADD raises `CalibrationUnavailable` (code 1, R141) when either operand is non-finite, and
otherwise `CalibrationRangeError` (code 2) where `1 + cg = 0` (even for `ca = 0`, C3) or the rounded quotient is out of
range. -/
def Obligations.CaddErrors : Prop :=
  ∀ (s : State) (ch : BitVec 8) (gsel : GainSel) (c : Channel) (g : Gain),
    ch.toNat = c.val → gselResolve gsel c s.block = g →
    let raises := fun (code : BitVec 4) (flag : BitVec 8) => exec (.cadd ch gsel) s = .next
      { s with
        block :=
          { s.block with
            lasterr := code
            errflags := s.block.errflags ||| flag
            result := 0
            rvalid := false } }
    (((∀ ca, fval s.block.opa ≠ .finite ca) ∨ (∀ cg, fval s.block.opb ≠ .finite cg)) → raises 1 0x02) ∧
    ∀ (ca cg : ℚ) (n : Int), fval s.block.opa = .finite ca → fval s.block.opb = .finite cg →
      n = rhaz (-ca * 131072 / ((gainRange g).real * (1 + cg))) →
      (1 + cg = 0 ∨ n < -131072 ∨ 131071 < n) → raises 2 0x04

/-- R130, R88: V2R clamps at and beyond full scale (infinities included), and is linear and truncated toward zero inside,
with the full scale of the selected gain. -/
def Obligations.V2rResult : Prop :=
  ∀ (s : State) (ch : BitVec 8) (gsel : GainSel) (c : Channel) (fs : ℚ),
    ch.toNat = c.val → fs = (gainRange (gselResolve gsel c s.block)).ideal →
    let gives := fun (n : Int) => exec (.v2r ch gsel) s = .next
      { s with block := { s.block with result := BitVec.ofInt 32 n, rvalid := true, lasterr := 0 } }
    (fval s.block.opa = .posInf → gives 8191) ∧
    (fval s.block.opa = .negInf → gives (-8192)) ∧
    ∀ v, fval s.block.opa = .finite v →
      (fs ≤ v → gives 8191) ∧ (v ≤ -fs → gives (-8192)) ∧
      (-fs < v → v < fs → gives (trunc (v * 8192 / fs)))

/-- R130, R88, R145: V2R of a NaN raises `InvalidOperand` (code 7, R141), and with a legal channel it raises nothing else. -/
def Obligations.V2rRaisesOnlyOnNan : Prop :=
  ∀ (s : State) (ch : BitVec 8) (gsel : GainSel) (c : Channel), ch.toNat = c.val →
    let raises := fun (code : BitVec 4) (flag : BitVec 8) => exec (.v2r ch gsel) s = .next
      { s with
        block :=
          { s.block with
            lasterr := code
            errflags := s.block.errflags ||| flag
            result := 0
            rvalid := false } }
    (fval s.block.opa = .nan → raises 7 0x80) ∧
    (fval s.block.opa ≠ .nan → ∃ t, exec (.v2r ch gsel) s = .next t ∧ t.block.lasterr = 0)

/-- R121, R120: PACK puts the low 14 bits of `OPA` at bit 4 (channel 0) or bit 2 (channel 1) of an otherwise-zero word,
whatever `OPA` is. -/
def Obligations.PackResult : Prop :=
  ∀ (s : State) (ch : BitVec 8) (lsb : Nat),
    (ch = 0 ∧ lsb = 4 ∨ ch = 1 ∧ lsb = 2) →
      exec (.pack ch) s = .next
        { s with
          block :=
            { s.block with
              result := BitVec.ofNat 32 (s.block.opa.toNat % 2 ^ 14 * 2 ^ lsb)
              rvalid := true
              lasterr := 0 } }

/-- R131: SETGAIN writes the gain mode of its channel and `LASTERR`, and nothing else; the other channel keeps its
gain. -/
def Obligations.SetgainEffect : Prop :=
  ∀ (s : State) (ch : BitVec 8) (gsel : GainSel) (c : Channel) (g : Gain),
    ch.toNat = c.val → (gsel = .low ∧ g = .low ∨ gsel = .high ∧ g = .high) →
      ∃ t, exec (.setgain ch gsel) s = .next t ∧
        t = { s with block := { s.block with gain := t.block.gain, lasterr := 0 } } ∧
        t.block.gain[c] = g ∧ ∀ d : Channel, d ≠ c → t.block.gain[d] = s.block.gain[d]

/-- R101: SETCAL deposits `OPA` and `OPB`, whatever they are, in entry `k = 2*ch + g`, sets `CALDEF[k]`, clears `COEFV[k]`,
and leaves the other entries, every coefficient, `RESULT`, `RVALID` and `ERRFLAGS` alone. -/
def Obligations.SetcalEffect : Prop :=
  ∀ (s : State) (ch : BitVec 8) (gsel : GainSel) (k : Pair),
    (gsel = .low ∧ k.val = 2 * ch.toNat ∨ gsel = .high ∧ k.val = 2 * ch.toNat + 1) →
      ∃ t, exec (.setcal ch gsel) s = .next t ∧
        t = { s with
          block :=
            { s.block with
              calCg := t.block.calCg
              calCa := t.block.calCa
              caldef := t.block.caldef
              coefv := t.block.coefv
              lasterr := 0 } } ∧
        t.block.calCg[k] = s.block.opa ∧ t.block.calCa[k] = s.block.opb ∧
        t.block.caldef[k] = true ∧ t.block.coefv[k] = false ∧
        ∀ j : Pair, j ≠ k →
          t.block.calCg[j] = s.block.calCg[j] ∧ t.block.calCa[j] = s.block.calCa[j] ∧
          t.block.caldef[j] = s.block.caldef[j] ∧ t.block.coefv[j] = s.block.coefv[j]

/-- R102: CLRCAL empties the record and drops `CALDEF` and `COEFV`, and leaves everything else but `LASTERR` alone. -/
def Obligations.ClrcalEffect : Prop :=
  ∀ s : State, ∃ t, exec .clrcal s = .next t ∧
    t = { s with
      block :=
        { s.block with
          calCg := t.block.calCg
          calCa := t.block.calCa
          caldef := t.block.caldef
          coefv := t.block.coefv
          lasterr := 0 } } ∧
    ∀ k : Pair, t.block.calCg[k] = 0 ∧ t.block.calCa[k] = 0 ∧ t.block.caldef[k] = false ∧ t.block.coefv[k] = false

/-- R104, R103: XLT of a defined pair on which `F_mult` and `F_add` succeed writes both coefficient registers of that pair
and `COEFV[k]`, and nothing else but `LASTERR`. -/
def Obligations.XltResult : Prop :=
  ∀ (s : State) (ch : BitVec 8) (gsel : GainSel) (c : Channel) (g : Gain) (k : Pair) (m a : Int),
    ch.toNat = c.val → gselResolve gsel c s.block = g → k = pairIndex c g → s.block.caldef[k] = true →
    fMult s.block.calCg[k] g = .ok m → fAdd s.block.calCa[k] s.block.calCg[k] g = .ok a →
      ∃ t, exec (.xlt ch gsel) s = .next t ∧
        t = { s with
          block :=
            { s.block with
              coefMult := t.block.coefMult
              coefAdd := t.block.coefAdd
              coefv := t.block.coefv
              lasterr := 0 } } ∧
        t.block.coefMult[k] = BitVec.ofInt 18 m ∧ t.block.coefAdd[k] = BitVec.ofInt 18 a ∧ t.block.coefv[k] = true ∧
        ∀ j : Pair, j ≠ k →
          t.block.coefMult[j] = s.block.coefMult[j] ∧ t.block.coefAdd[j] = s.block.coefAdd[j] ∧
          t.block.coefv[j] = s.block.coefv[j]

/-- R104, R103: XLT of an undefined entry, or of one with a non-finite half, raises `CalibrationUnavailable` (code 1, R141);
a defined, finite entry with `1 + cg = 0` or a coefficient out of range raises `CalibrationRangeError` (code 2). -/
def Obligations.XltErrors : Prop :=
  ∀ (s : State) (ch : BitVec 8) (gsel : GainSel) (c : Channel) (g : Gain) (k : Pair),
    ch.toNat = c.val → gselResolve gsel c s.block = g → k = pairIndex c g →
    let raises := fun (code : BitVec 4) (flag : BitVec 8) => exec (.xlt ch gsel) s = .next
      { s with
        block :=
          { s.block with
            lasterr := code
            errflags := s.block.errflags ||| flag
            result := 0
            rvalid := false } }
    ((s.block.caldef[k] = false ∨ (∀ q, fval s.block.calCg[k] ≠ .finite q) ∨
        (∀ q, fval s.block.calCa[k] ≠ .finite q)) → raises 1 0x02) ∧
    ∀ (cg ca : ℚ) (m a : Int), s.block.caldef[k] = true →
      fval s.block.calCg[k] = .finite cg → fval s.block.calCa[k] = .finite ca →
      m = rhaz ((gainRange g).ideal / (gainRange g).real / (1 + cg) * 65536) →
      a = rhaz (-ca * 131072 / ((gainRange g).real * (1 + cg))) →
      (1 + cg = 0 ∨ m < -131072 ∨ 131071 < m ∨ a < -131072 ∨ 131071 < a) → raises 2 0x04

/-- R105: XLTALL, when all four pairs translate, writes all eight coefficient registers and all four `COEFV` bits, and
nothing else but `LASTERR`. It is stated of XLTALL with any range constants `rs` (R6: "parameters the model takes as
arguments"), since the LOW constants are open and with absurd ones no record translates; `exec` runs it with the machine's
own, `gainRange` (assumption log 5). -/
def Obligations.XltallResult : Prop :=
  ∀ (rs : Ranges) (s : State) (m a : Pair → Int),
    (∀ k : Pair, s.block.caldef[k] = true ∧ fMultWith (rs (pairGain k)) s.block.calCg[k] = .ok (m k) ∧
      fAddWith (rs (pairGain k)) s.block.calCa[k] s.block.calCg[k] = .ok (a k)) →
      ∃ t, runCommand s (xltallOp rs) = .next t ∧ (rs = gainRange → exec .xltall s = .next t) ∧
        t = { s with
          block :=
            { s.block with
              coefMult := t.block.coefMult
              coefAdd := t.block.coefAdd
              coefv := t.block.coefv
              lasterr := 0 } } ∧
        ∀ k : Pair, t.block.coefMult[k] = BitVec.ofInt 18 (m k) ∧ t.block.coefAdd[k] = BitVec.ofInt 18 (a k) ∧
          t.block.coefv[k] = true

/-- R105, R103: XLTALL with a bad pair raises the error of the lowest bad pair, `CalibrationUnavailable` (code 1, R141) or
`CalibrationRangeError` (code 2), and changes no coefficient register and no `COEFV` bit. Stated with any range constants,
as `XltallResult` is. -/
def Obligations.XltallReportsLowestBadPair : Prop :=
  ∀ (rs : Ranges) (s : State) (k : Pair) (e : ErrorKind), translatePairIn rs s.block k = .error e →
    (∀ j : Pair, j < k → ∃ p, translatePairIn rs s.block j = .ok p) →
    let raises := fun (code : BitVec 4) (flag : BitVec 8) =>
      let t : State :=
        { s with
          block :=
            { s.block with
              lasterr := code
              errflags := s.block.errflags ||| flag
              result := 0
              rvalid := false } }
      runCommand s (xltallOp rs) = .next t ∧ (rs = gainRange → exec .xltall s = .next t)
    (e = .calibrationUnavailable ∧ raises 1 0x02) ∨ (e = .calibrationRangeError ∧ raises 2 0x04)

/-- R105: when all pairs are good, XLTALL does what four XLT do, in any order. Stated with any range constants, as
`XltallResult` is. -/
def Obligations.XltallEqualsFourXlt : Prop :=
  ∀ (rs : Ranges) (s : State) (order : List (BitVec 8 × GainSel)),
    (∀ k : Pair, ∃ p, translatePairIn rs s.block k = .ok p) →
    order.Perm [(0, .low), (0, .high), (1, .low), (1, .high)] →
      order.foldl (fun b x => settle b (xltOp rs x.1 x.2 b)) s.block = settle s.block (xltallOp rs s.block) ∧
      (rs = gainRange → execAll (order.map fun x => .xlt x.1 x.2) s = exec .xltall s)

/-! ### Gain selection -/

/-- R66, R65: CUR is the channel's current Gain Mode, in each of the four commands that admit it; and with LOW or HIGH,
whatever the gains are, every legal `CH` gives the same CMULT, CADD and V2R. -/
def Obligations.CurNamesTheChannelsGain : Prop :=
  (∀ (s : State) (ch : BitVec 8) (c : Channel) (gsel : GainSel), ch.toNat = c.val →
    namedGain gsel = .ok s.block.gain[c] →
      exec (.cmult ch .cur) s = exec (.cmult ch gsel) s ∧ exec (.cadd ch .cur) s = exec (.cadd ch gsel) s ∧
      exec (.v2r ch .cur) s = exec (.v2r ch gsel) s ∧ exec (.xlt ch .cur) s = exec (.xlt ch gsel) s) ∧
  ∀ (s : State) (ch ch' : BitVec 8) (gsel : GainSel), gsel ≠ .cur → ch.toNat < 2 → ch'.toNat < 2 →
    exec (.cmult ch gsel) s = exec (.cmult ch' gsel) s ∧ exec (.cadd ch gsel) s = exec (.cadd ch' gsel) s ∧
    exec (.v2r ch gsel) s = exec (.v2r ch' gsel) s

/-- R66: after SETGAIN, a CMULT, CADD or V2R of that channel with CUR answers what it answers with the gain named. -/
def Obligations.GainChangeIsObservable : Prop :=
  ∀ (s t : State) (ch : BitVec 8) (c : Channel) (gsel : GainSel), ch.toNat = c.val → gsel ≠ .cur →
    exec (.setgain ch gsel) s = .next t →
      exec (.cmult ch .cur) t = exec (.cmult ch gsel) t ∧ exec (.cadd ch .cur) t = exec (.cadd ch gsel) t ∧
      exec (.v2r ch .cur) t = exec (.v2r ch gsel) t ∧ exec (.xlt ch .cur) t = exec (.xlt ch gsel) t

/-- R121, R106, R107, R130, R11: in any two states, what a command leaves in `RESULT`, `RVALID` and `LASTERR` depends for
PACK on its channel and `OPA` only, for CMULT and V2R with legal channels on `OPA` and the selected gain only, and for CADD
on `OPA`, `OPB` and the selected gain only: neither the channel, nor how the gain is named, nor the gain of a channel that
CUR does not read plays a part. -/
def Obligations.PureCommandsReadOnlyTheirOperands : Prop :=
  ∀ s s' : State, s.block.opa = s'.block.opa →
    let agree := fun (i i' : Instr) =>
      ∃ t t', exec i s = .next t ∧ exec i' s' = .next t' ∧
        t.block.result = t'.block.result ∧ t.block.rvalid = t'.block.rvalid ∧ t.block.lasterr = t'.block.lasterr
    (∀ ch : BitVec 8, agree (.pack ch) (.pack ch)) ∧
    ∀ (ch ch' : BitVec 8) (gsel gsel' : GainSel) (c c' : Channel), ch.toNat = c.val → ch'.toNat = c'.val →
      gselResolve gsel c s.block = gselResolve gsel' c' s'.block →
        agree (.cmult ch gsel) (.cmult ch' gsel') ∧ agree (.v2r ch gsel) (.v2r ch' gsel') ∧
        (s.block.opb = s'.block.opb → agree (.cadd ch gsel) (.cadd ch' gsel'))

/-! ### Numerics -/

/-- R80: the value of a binary32 pattern, from its sign, exponent and fraction as numbers. -/
def Obligations.FvalOfPattern : Prop :=
  ∀ (sg e f : Nat) (b : Word), sg < 2 → e < 256 → f < 2 ^ 23 →
    b = BitVec.ofNat 32 (sg * 2 ^ 31 + e * 2 ^ 23 + f) →
      (e = 255 → f = 0 → fval b = if sg = 0 then .posInf else .negInf) ∧
      (e = 255 → f ≠ 0 → fval b = .nan) ∧
      (e = 0 → fval b = .finite ((-1) ^ sg * f * 2 ^ (-149 : Int))) ∧
      (0 < e → e < 255 → fval b = .finite ((-1) ^ sg * (2 ^ 23 + f) * 2 ^ ((e : Int) - 150)))

/-- R80: two patterns with the same finite value are the same pattern or are the two zeros. -/
def Obligations.FvalIsInjectiveButForZero : Prop :=
  ∀ (a b : Word) (q : ℚ), fval a = .finite q → fval b = .finite q →
    a = b ∨ (q = 0 ∧ (a = 0x00000000 ∨ a = 0x80000000) ∧ (b = 0x00000000 ∨ b = 0x80000000))

/-- R82: `rhaz` by its two cases, as an odd function, in integers, and at the rule's examples; and where the two methods it
is not (floor of `q + 1/2`, truncation of `q + 1/2`) differ from it. -/
def Obligations.RhazRoundsHalfAwayFromZero : Prop :=
  (∀ q : ℚ, 0 ≤ q → rhaz q = ⌊q + 1 / 2⌋) ∧ (∀ q : ℚ, q < 0 → rhaz q = -⌊-q + 1 / 2⌋) ∧
  (∀ q : ℚ, rhaz (-q) = -rhaz q) ∧
  (∀ N D : Int, 0 < D → rhaz ((N : ℚ) / D) = N.sign * ((2 * |N| + D) / (2 * D))) ∧
  (∀ q : ℚ, ⌊q + 1 / 2⌋ ≠ rhaz q ↔ q < 0 ∧ ∃ n : Int, q = n + 1 / 2) ∧
  (∀ q : ℚ, q ≤ -1 / 2 → trunc (q + 1 / 2) ≠ rhaz q) ∧
  rhaz (5 / 2) = 3 ∧ rhaz (-5 / 2) = -3 ∧ rhaz (24999 / 10000) = 2 ∧ rhaz (-24999 / 10000) = -2 ∧
  rhaz (-1 / 2) = -1 ∧ rhaz (1 / 2) = 1 ∧ rhaz 0 = 0

/-- R82, R81: `rhaz` answers a nearest integer, and of two nearest ones the one farther from zero. -/
def Obligations.RhazIsNearest : Prop :=
  ∀ q : ℚ, |(rhaz q : ℚ) - q| ≤ 1 / 2 ∧
    ∀ n : Int, |(n : ℚ) - q| ≤ 1 / 2 → n ≠ rhaz q → |n| < |rhaz q|

/-- R83: `trunc` by its two cases, at the rule's examples, and as the integer part toward zero. -/
def Obligations.TruncTowardZero : Prop :=
  (∀ q : ℚ, 0 ≤ q → trunc q = ⌊q⌋) ∧ (∀ q : ℚ, q < 0 → trunc q = -⌊-q⌋) ∧
  trunc (16384 / 10) = 1638 ∧ trunc (-16384 / 10) = -1638 ∧ trunc (-98 / 100) = 0 ∧
  ∀ q : ℚ, |(trunc q : ℚ)| ≤ |q| ∧ |q| < |(trunc q : ℚ)| + 1

/-- R85, R86, R88, R5, C1: rows of the rules' corner-case tables under the HIGH constants. -/
def Obligations.CornerCasesUnderHighConstants : Prop :=
  fMult 0x00000000 .high = .ok 61594 ∧ fMult 0x00000001 .high = .ok 61594 ∧
  fMult 0xBF07B2E3 .high = .ok 131071 ∧ fMult 0xBF07B2E4 .high = .error .calibrationRangeError ∧
  fMult 0xBF800000 .high = .error .calibrationRangeError ∧
  fMult 0xBFBC2670 .high = .error .calibrationRangeError ∧ fMult 0xBFBC2671 .high = .ok (-131072) ∧
  fMult 0x7149F2CA .high = .ok 0 ∧ fMult 0xFF800000 .high = .error .calibrationUnavailable ∧
  fAdd 0x3A050000 0x00000000 .high = .ok (-13) ∧ fAdd 0xBA050000 0x00000000 .high = .ok 13 ∧
  fAdd 0x40AA3D71 0x00000000 .high = .ok (-131072) ∧
  fAdd 0xC0AA3D71 0x00000000 .high = .error .calibrationRangeError ∧
  fAdd 0x3F800000 0xC0000000 .high = .ok 24638 ∧
  fAdd 0x00000000 0x7F800000 .high = .error .calibrationUnavailable ∧
  fV2r 0xBF800000 .high = .ok (-1638) ∧ fV2r 0xBA1D4952 .high = .ok 0 ∧
  fV2r 0x409FFFFF .high = .ok 8191 ∧ fV2r 0xC09FFFFF .high = .ok (-8191) ∧
  fV2r 0xC0A00000 .high = .ok (-8192) ∧ fV2r 0x7FC00000 .high = .error .invalidOperand

/-- R85: `1 + cg` is zero for exactly one pattern, 0xBF800000. -/
def Obligations.OnePatternGivesZeroDivisor : Prop :=
  ∀ (b : Word) (q : ℚ), fval b = .finite q → (1 + q = 0 ↔ b = 0xBF800000)

/-- R85: with the HIGH constants no finite `cg` makes the exact quotient a half-way value. -/
def Obligations.NoTiesInHighMultiplicative : Prop :=
  ∀ (b : Word) (cg : ℚ) (n : Int), fval b = .finite cg → 1 + cg ≠ 0 →
    (gainRange .high).ideal / (gainRange .high).real / (1 + cg) * 65536 ≠ n + 1 / 2

/-- R87, R90, R91: a coefficient that `F_mult` or `F_add` answers is in the 18-bit signed range, and both its register form
and its form in `RESULT` read back as that integer. -/
def Obligations.CoefficientsFitAndReadBack : Prop :=
  ∀ (cgb cab : Word) (g : Gain) (n : Int), (fMult cgb g = .ok n ∨ fAdd cab cgb g = .ok n) →
    -131072 ≤ n ∧ n ≤ 131071 ∧ (coefField n).toInt = n ∧ (sext32 n).toInt = n

/-- R86, R91, C3: a zero `ca` gives 0 for every finite `cg` but -1, and the range error for -1. -/
def Obligations.ZeroAdditiveGivesZero : Prop :=
  ∀ (cab cgb : Word) (g : Gain) (cg : ℚ), (cab = 0x00000000 ∨ cab = 0x80000000) → fval cgb = .finite cg →
    (cg ≠ -1 → fAdd cab cgb g = .ok 0) ∧ (cg = -1 → fAdd cab cgb g = .error .calibrationRangeError)

/-- R88, R91: the conversion is monotonic, stays in the 14-bit signed range, answers -8192 only at the clamp, and is odd
inside full scale. -/
def Obligations.V2rIsMonotonicAndOdd : Prop :=
  ∀ (a b : Word) (g : Gain) (p q : ℚ) (n m : Int), fval a = .finite p → fval b = .finite q →
    fV2r a g = .ok n → fV2r b g = .ok m →
      (p ≤ q → n ≤ m) ∧ -8192 ≤ n ∧ n ≤ 8191 ∧ (n = -8192 → p ≤ -(gainRange g).ideal) ∧
      (q = -p → |p| < (gainRange g).ideal → m = -n)

/-! ### Packing -/

/-- R123: unpacking the lane of a Transfer Word gives back the low 14 bits of the sample, and every bit outside the lane is
0. -/
def Obligations.PackRoundTrip : Prop :=
  ∀ (c : Channel) (v : Word),
    unpack c (packLane c v) = v.extractLsb' 0 14 ∧
    ∀ n : Nat, (packLane c v).getLsbD n = true →
      (c = 0 → 4 ≤ n ∧ n ≤ 17) ∧ (c = 1 → 2 ≤ n ∧ n ≤ 15)

/-- R89: a raw sample that V2R answers survives packing: read as a signed 14-bit number, the lane holds it. -/
def Obligations.RawSampleSurvivesPacking : Prop :=
  ∀ (c : Channel) (vb : Word) (g : Gain) (n : Int), fV2r vb g = .ok n →
    (unpack c (packLane c (sext32 n))).toInt = n
end

