-- ==== Sys2Proof/Laws/State.lean ====
section
/-! SUPPORT. The small lemmas of the state: what each field holds after each named update, and what each element of an
indexed register holds after a write to one of them. -/

namespace Sys2Proof.Machine

/-! ### raise -/

@[simp] theorem raise_opa (e : ErrorKind) (b : Block) : (raise e b).opa = b.opa := rfl
@[simp] theorem raise_opb (e : ErrorKind) (b : Block) : (raise e b).opb = b.opb := rfl
@[simp] theorem raise_result (e : ErrorKind) (b : Block) : (raise e b).result = 0 := rfl
@[simp] theorem raise_rvalid (e : ErrorKind) (b : Block) : (raise e b).rvalid = false := rfl
@[simp] theorem raise_lasterr (e : ErrorKind) (b : Block) : (raise e b).lasterr = errorCode e := rfl
@[simp] theorem raise_errflags (e : ErrorKind) (b : Block) : (raise e b).errflags = setErrflag (errorCode e) b.errflags := rfl
@[simp] theorem raise_gain (e : ErrorKind) (b : Block) : (raise e b).gain = b.gain := rfl
@[simp] theorem raise_calCg (e : ErrorKind) (b : Block) : (raise e b).calCg = b.calCg := rfl
@[simp] theorem raise_calCa (e : ErrorKind) (b : Block) : (raise e b).calCa = b.calCa := rfl
@[simp] theorem raise_caldef (e : ErrorKind) (b : Block) : (raise e b).caldef = b.caldef := rfl
@[simp] theorem raise_coefMult (e : ErrorKind) (b : Block) : (raise e b).coefMult = b.coefMult := rfl
@[simp] theorem raise_coefAdd (e : ErrorKind) (b : Block) : (raise e b).coefAdd = b.coefAdd := rfl
@[simp] theorem raise_coefv (e : ErrorKind) (b : Block) : (raise e b).coefv = b.coefv := rfl

/-! ### putResult -/

@[simp] theorem putResult_opa (v : Word) (b : Block) : (putResult v b).opa = b.opa := rfl
@[simp] theorem putResult_opb (v : Word) (b : Block) : (putResult v b).opb = b.opb := rfl
@[simp] theorem putResult_result (v : Word) (b : Block) : (putResult v b).result = v := rfl
@[simp] theorem putResult_rvalid (v : Word) (b : Block) : (putResult v b).rvalid = true := rfl
@[simp] theorem putResult_lasterr (v : Word) (b : Block) : (putResult v b).lasterr = b.lasterr := rfl
@[simp] theorem putResult_errflags (v : Word) (b : Block) : (putResult v b).errflags = b.errflags := rfl
@[simp] theorem putResult_gain (v : Word) (b : Block) : (putResult v b).gain = b.gain := rfl
@[simp] theorem putResult_calCg (v : Word) (b : Block) : (putResult v b).calCg = b.calCg := rfl
@[simp] theorem putResult_calCa (v : Word) (b : Block) : (putResult v b).calCa = b.calCa := rfl
@[simp] theorem putResult_caldef (v : Word) (b : Block) : (putResult v b).caldef = b.caldef := rfl
@[simp] theorem putResult_coefMult (v : Word) (b : Block) : (putResult v b).coefMult = b.coefMult := rfl
@[simp] theorem putResult_coefAdd (v : Word) (b : Block) : (putResult v b).coefAdd = b.coefAdd := rfl
@[simp] theorem putResult_coefv (v : Word) (b : Block) : (putResult v b).coefv = b.coefv := rfl

/-! ### putGain -/

@[simp] theorem putGain_opa (c : Channel) (g : Gain) (b : Block) : (putGain c g b).opa = b.opa := rfl
@[simp] theorem putGain_opb (c : Channel) (g : Gain) (b : Block) : (putGain c g b).opb = b.opb := rfl
@[simp] theorem putGain_result (c : Channel) (g : Gain) (b : Block) : (putGain c g b).result = b.result := rfl
@[simp] theorem putGain_rvalid (c : Channel) (g : Gain) (b : Block) : (putGain c g b).rvalid = b.rvalid := rfl
@[simp] theorem putGain_lasterr (c : Channel) (g : Gain) (b : Block) : (putGain c g b).lasterr = b.lasterr := rfl
@[simp] theorem putGain_errflags (c : Channel) (g : Gain) (b : Block) : (putGain c g b).errflags = b.errflags := rfl
@[simp] theorem putGain_gain (c : Channel) (g : Gain) (b : Block) : (putGain c g b).gain = b.gain.set c g := rfl
@[simp] theorem putGain_calCg (c : Channel) (g : Gain) (b : Block) : (putGain c g b).calCg = b.calCg := rfl
@[simp] theorem putGain_calCa (c : Channel) (g : Gain) (b : Block) : (putGain c g b).calCa = b.calCa := rfl
@[simp] theorem putGain_caldef (c : Channel) (g : Gain) (b : Block) : (putGain c g b).caldef = b.caldef := rfl
@[simp] theorem putGain_coefMult (c : Channel) (g : Gain) (b : Block) : (putGain c g b).coefMult = b.coefMult := rfl
@[simp] theorem putGain_coefAdd (c : Channel) (g : Gain) (b : Block) : (putGain c g b).coefAdd = b.coefAdd := rfl
@[simp] theorem putGain_coefv (c : Channel) (g : Gain) (b : Block) : (putGain c g b).coefv = b.coefv := rfl

/-! ### putCal -/

@[simp] theorem putCal_opa (k : Pair) (cg ca : Word) (b : Block) : (putCal k cg ca b).opa = b.opa := rfl
@[simp] theorem putCal_opb (k : Pair) (cg ca : Word) (b : Block) : (putCal k cg ca b).opb = b.opb := rfl
@[simp] theorem putCal_result (k : Pair) (cg ca : Word) (b : Block) : (putCal k cg ca b).result = b.result := rfl
@[simp] theorem putCal_rvalid (k : Pair) (cg ca : Word) (b : Block) : (putCal k cg ca b).rvalid = b.rvalid := rfl
@[simp] theorem putCal_lasterr (k : Pair) (cg ca : Word) (b : Block) : (putCal k cg ca b).lasterr = b.lasterr := rfl
@[simp] theorem putCal_errflags (k : Pair) (cg ca : Word) (b : Block) : (putCal k cg ca b).errflags = b.errflags := rfl
@[simp] theorem putCal_gain (k : Pair) (cg ca : Word) (b : Block) : (putCal k cg ca b).gain = b.gain := rfl
@[simp] theorem putCal_calCg (k : Pair) (cg ca : Word) (b : Block) : (putCal k cg ca b).calCg = b.calCg.set k cg := rfl
@[simp] theorem putCal_calCa (k : Pair) (cg ca : Word) (b : Block) : (putCal k cg ca b).calCa = b.calCa.set k ca := rfl
@[simp] theorem putCal_caldef (k : Pair) (cg ca : Word) (b : Block) : (putCal k cg ca b).caldef = b.caldef.set k true := rfl
@[simp] theorem putCal_coefMult (k : Pair) (cg ca : Word) (b : Block) : (putCal k cg ca b).coefMult = b.coefMult := rfl
@[simp] theorem putCal_coefAdd (k : Pair) (cg ca : Word) (b : Block) : (putCal k cg ca b).coefAdd = b.coefAdd := rfl
@[simp] theorem putCal_coefv (k : Pair) (cg ca : Word) (b : Block) : (putCal k cg ca b).coefv = b.coefv.set k false := rfl

/-! ### clearCal -/

@[simp] theorem clearCal_opa (b : Block) : (clearCal b).opa = b.opa := rfl
@[simp] theorem clearCal_opb (b : Block) : (clearCal b).opb = b.opb := rfl
@[simp] theorem clearCal_result (b : Block) : (clearCal b).result = b.result := rfl
@[simp] theorem clearCal_rvalid (b : Block) : (clearCal b).rvalid = b.rvalid := rfl
@[simp] theorem clearCal_lasterr (b : Block) : (clearCal b).lasterr = b.lasterr := rfl
@[simp] theorem clearCal_errflags (b : Block) : (clearCal b).errflags = b.errflags := rfl
@[simp] theorem clearCal_gain (b : Block) : (clearCal b).gain = b.gain := rfl
@[simp] theorem clearCal_calCg (b : Block) : (clearCal b).calCg = #v[0, 0, 0, 0] := rfl
@[simp] theorem clearCal_calCa (b : Block) : (clearCal b).calCa = #v[0, 0, 0, 0] := rfl
@[simp] theorem clearCal_caldef (b : Block) : (clearCal b).caldef = #v[false, false, false, false] := rfl
@[simp] theorem clearCal_coefMult (b : Block) : (clearCal b).coefMult = b.coefMult := rfl
@[simp] theorem clearCal_coefAdd (b : Block) : (clearCal b).coefAdd = b.coefAdd := rfl
@[simp] theorem clearCal_coefv (b : Block) : (clearCal b).coefv = #v[false, false, false, false] := rfl

/-! ### putCoef -/

@[simp] theorem putCoef_opa (k : Pair) (m a : Int) (b : Block) : (putCoef k m a b).opa = b.opa := rfl
@[simp] theorem putCoef_opb (k : Pair) (m a : Int) (b : Block) : (putCoef k m a b).opb = b.opb := rfl
@[simp] theorem putCoef_result (k : Pair) (m a : Int) (b : Block) : (putCoef k m a b).result = b.result := rfl
@[simp] theorem putCoef_rvalid (k : Pair) (m a : Int) (b : Block) : (putCoef k m a b).rvalid = b.rvalid := rfl
@[simp] theorem putCoef_lasterr (k : Pair) (m a : Int) (b : Block) : (putCoef k m a b).lasterr = b.lasterr := rfl
@[simp] theorem putCoef_errflags (k : Pair) (m a : Int) (b : Block) : (putCoef k m a b).errflags = b.errflags := rfl
@[simp] theorem putCoef_gain (k : Pair) (m a : Int) (b : Block) : (putCoef k m a b).gain = b.gain := rfl
@[simp] theorem putCoef_calCg (k : Pair) (m a : Int) (b : Block) : (putCoef k m a b).calCg = b.calCg := rfl
@[simp] theorem putCoef_calCa (k : Pair) (m a : Int) (b : Block) : (putCoef k m a b).calCa = b.calCa := rfl
@[simp] theorem putCoef_caldef (k : Pair) (m a : Int) (b : Block) : (putCoef k m a b).caldef = b.caldef := rfl
@[simp] theorem putCoef_coefMult (k : Pair) (m a : Int) (b : Block) : (putCoef k m a b).coefMult = b.coefMult.set k (coefField m) := rfl
@[simp] theorem putCoef_coefAdd (k : Pair) (m a : Int) (b : Block) : (putCoef k m a b).coefAdd = b.coefAdd.set k (coefField a) := rfl
@[simp] theorem putCoef_coefv (k : Pair) (m a : Int) (b : Block) : (putCoef k m a b).coefv = b.coefv.set k true := rfl

/-! ### writeReg -/

@[simp] theorem writeReg_result (b : Block) (v : Word) (r : Reg) : (writeReg b v r).result = b.result := by cases r <;> rfl
@[simp] theorem writeReg_rvalid (b : Block) (v : Word) (r : Reg) : (writeReg b v r).rvalid = b.rvalid := by cases r <;> rfl
@[simp] theorem writeReg_lasterr (b : Block) (v : Word) (r : Reg) : (writeReg b v r).lasterr = b.lasterr := by cases r <;> rfl
@[simp] theorem writeReg_gain (b : Block) (v : Word) (r : Reg) : (writeReg b v r).gain = b.gain := by cases r <;> rfl
@[simp] theorem writeReg_calCg (b : Block) (v : Word) (r : Reg) : (writeReg b v r).calCg = b.calCg := by cases r <;> rfl
@[simp] theorem writeReg_calCa (b : Block) (v : Word) (r : Reg) : (writeReg b v r).calCa = b.calCa := by cases r <;> rfl
@[simp] theorem writeReg_caldef (b : Block) (v : Word) (r : Reg) : (writeReg b v r).caldef = b.caldef := by cases r <;> rfl
@[simp] theorem writeReg_coefMult (b : Block) (v : Word) (r : Reg) : (writeReg b v r).coefMult = b.coefMult := by cases r <;> rfl
@[simp] theorem writeReg_coefAdd (b : Block) (v : Word) (r : Reg) : (writeReg b v r).coefAdd = b.coefAdd := by cases r <;> rfl
@[simp] theorem writeReg_coefv (b : Block) (v : Word) (r : Reg) : (writeReg b v r).coefv = b.coefv := by cases r <;> rfl

/-! ### Updates of the whole state -/

@[simp] theorem respond_block (r : Response) (s : State) : (respond r s).block = s.block := rfl
@[simp] theorem respond_resetLine (r : Response) (s : State) : (respond r s).resetLine = s.resetLine := rfl
@[simp] theorem respond_pending (r : Response) (s : State) : (respond r s).pending = s.pending := rfl
@[simp] theorem respond_response (r : Response) (s : State) : (respond r s).response = some r := rfl
@[simp] theorem assertReset_block (s : State) : (assertReset s).block = Block.reset := rfl
@[simp] theorem assertReset_resetLine (s : State) : (assertReset s).resetLine = true := rfl
@[simp] theorem assertReset_pending (s : State) : (assertReset s).pending = s.pending := rfl
@[simp] theorem assertReset_response (s : State) : (assertReset s).response = none := rfl
@[simp] theorem releaseReset_pending (s : State) : (releaseReset s).pending = s.pending := by
  unfold releaseReset; split <;> rfl
@[simp] theorem releaseReset_resetLine (s : State) : (releaseReset s).resetLine = false := by
  unfold releaseReset; split <;> simp_all

/-! ### Elements of an indexed register after a write to one of them -/

theorem get_set_pair {α : Type} (v : Vector α 4) (k j : Pair) (x : α) :
    (v.set k x)[j] = if j = k then x else v[j] := by
  simp only [Fin.getElem_fin, Vector.getElem_set, Fin.ext_iff, eq_comm]

theorem get_set_channel {α : Type} (v : Vector α 2) (c d : Channel) (x : α) :
    (v.set c x)[d] = if d = c then x else v[d] := by
  simp only [Fin.getElem_fin, Vector.getElem_set, Fin.ext_iff, eq_comm]

/-- An empty flag row reads empty at every pair. -/
theorem get_flags_empty (k : Pair) : (#v[false, false, false, false] : Vector Bool 4)[k] = false := by
  revert k; decide

/-- A cleared register row reads 0 at every pair. -/
theorem get_words_zero (k : Pair) : (#v[0, 0, 0, 0] : Vector Word 4)[k] = 0 := by
  revert k; decide

end Sys2Proof.Machine
end

