-- ==== Sys2Proof/Laws/Ops.lean ====
section
/-! SUPPORT. What each shared operation over operands and commands can do, said once: channel decode, gain selection, the
pair index, and the end of a command. -/

namespace Sys2Proof.Machine

/-! ### Errors inside a command -/

@[simp] theorem ok_bind {α β : Type} (a : α) (f : α → Except ErrorKind β) :
    ((Except.ok a : Except ErrorKind α) >>= f) = f a := rfl

@[simp] theorem error_bind {α β : Type} (e : ErrorKind) (f : α → Except ErrorKind β) :
    ((Except.error e : Except ErrorKind α) >>= f) = .error e := rfl

/-- A sequence of two parts that succeeds: both succeed. -/
theorem bind_eq_ok {α β : Type} {x : Except ErrorKind α} {f : α → Except ErrorKind β} {b : β} :
    (x >>= f) = .ok b ↔ ∃ a, x = .ok a ∧ f a = .ok b := by
  cases x <;> simp

/-- A sequence of two parts that ends in an error: the first part's, or the second's after the first succeeded. -/
theorem bind_eq_error {α β : Type} {x : Except ErrorKind α} {f : α → Except ErrorKind β} {e : ErrorKind} :
    (x >>= f) = .error e ↔ x = .error e ∨ ∃ a, x = .ok a ∧ f a = .error e := by
  cases x <;> simp

/-! ### The channel field (R65) -/

theorem channelOf_eq_ok {ch : BitVec 8} {c : Channel} : channelOf ch = .ok c ↔ ch.toNat = c.val := by
  unfold channelOf
  split
  · simp [Fin.ext_iff]
  · rename_i h; simp; omega

theorem channelOf_eq_error {ch : BitVec 8} {e : ErrorKind} :
    channelOf ch = .error e ↔ 1 < ch.toNat ∧ e = .invalidChannel := by
  unfold channelOf
  split
  · rename_i h; simp; omega
  · rename_i h; simp [eq_comm]; omega

/-- A legal channel field is the number of the channel it selects. -/
theorem channelOf_ofFin (c : Channel) : channelOf (BitVec.ofNat 8 c.val) = .ok c := by
  revert c; decide

/-! ### Gain selection (R66) and the gain a SETGAIN or SETCAL word names -/

@[simp] theorem gselResolve_low (c : Channel) (b : Block) : gselResolve .low c b = .low := rfl
@[simp] theorem gselResolve_high (c : Channel) (b : Block) : gselResolve .high c b = .high := rfl
@[simp] theorem gselResolve_cur (c : Channel) (b : Block) : gselResolve .cur c b = b.gain[c] := rfl
@[simp] theorem namedGain_low : namedGain .low = .ok .low := rfl
@[simp] theorem namedGain_high : namedGain .high = .ok .high := rfl
@[simp] theorem namedGain_cur : namedGain .cur = .error .illegalCommand := rfl

/-- Gain selection reads nothing but `GAIN`. -/
theorem gselResolve_congr {b b' : Block} (h : b.gain = b'.gain) (gsel : GainSel) (c : Channel) :
    gselResolve gsel c b = gselResolve gsel c b' := by
  cases gsel <;> simp [h]

/-! ### The pair index (00_scope.md section 6) -/

theorem pairIndex_val (c : Channel) (g : Gain) : (pairIndex c g).val = 2 * c.val + (gainBit g).toNat := by
  revert c; cases g <;> decide

@[simp] theorem pairGain_pairIndex (c : Channel) (g : Gain) : pairGain (pairIndex c g) = g := by
  revert c; cases g <;> decide

theorem pairIndex_injective {c d : Channel} {g h : Gain} (e : pairIndex c g = pairIndex d h) : c = d ∧ g = h := by
  revert c d; cases g <;> cases h <;> decide

/-- Every pair index is that of one channel and gain. -/
theorem exists_pairIndex (k : Pair) : ∃ c g, pairIndex c g = k := by
  match k with
  | 0 => exact ⟨0, .low, rfl⟩
  | 1 => exact ⟨0, .high, rfl⟩
  | 2 => exact ⟨1, .low, rfl⟩
  | 3 => exact ⟨1, .high, rfl⟩

/-! ### The end of a command (R63 step 6, R140, R146) -/

@[simp] theorem settle_ok (b b' : Block) : settle b (.ok b') = { b' with lasterr := 0 } := rfl
@[simp] theorem settle_error (b : Block) (e : ErrorKind) : settle b (.error e) = raise e b := rfl

/-- A command has exactly one of two ends. -/
theorem settle_cases (b : Block) (r : Except ErrorKind Block) :
    (∃ b', r = .ok b' ∧ settle b r = { b' with lasterr := 0 }) ∨ (∃ e, r = .error e ∧ settle b r = raise e b) := by
  cases r with
  | ok b' => exact .inl ⟨b', rfl, rfl⟩
  | error e => exact .inr ⟨e, rfl, rfl⟩

/-- What `runCommand` answers: always a next state, the same but for the block. -/
theorem runCommand_eq (s : State) (f : Block → Except ErrorKind Block) :
    runCommand s f = .next { s with block := settle s.block (f s.block) } := rfl

theorem runCommand_next_iff {s t : State} {f : Block → Except ErrorKind Block} :
    runCommand s f = .next t ↔ { s with block := settle s.block (f s.block) } = t := by
  simp [runCommand_eq]

/-- The codes are the numbers of R141, so no raised error has code 0. -/
theorem errorCode_ne_zero (e : ErrorKind) : errorCode e ≠ 0 := by cases e <;> decide

theorem errorCode_injective {e f : ErrorKind} (h : errorCode e = errorCode f) : e = f := by
  revert h; cases e <;> cases f <;> decide

/-! What each raised error writes, in the numbers of R141. -/

theorem raise_calibrationUnavailable (b : Block) : raise .calibrationUnavailable b =
    { b with lasterr := 1, errflags := b.errflags ||| 0x02, result := 0, rvalid := false } := rfl

theorem raise_calibrationRangeError (b : Block) : raise .calibrationRangeError b =
    { b with lasterr := 2, errflags := b.errflags ||| 0x04, result := 0, rvalid := false } := rfl

theorem raise_invalidChannel (b : Block) : raise .invalidChannel b =
    { b with lasterr := 3, errflags := b.errflags ||| 0x08, result := 0, rvalid := false } := rfl

theorem raise_illegalCommand (b : Block) : raise .illegalCommand b =
    { b with lasterr := 6, errflags := b.errflags ||| 0x40, result := 0, rvalid := false } := rfl

theorem raise_invalidOperand (b : Block) : raise .invalidOperand b =
    { b with lasterr := 7, errflags := b.errflags ||| 0x80, result := 0, rvalid := false } := rfl

end Sys2Proof.Machine
end

