-- ==== Sys2Proof/Laws/Numerics.lean ====
section
/-! SUPPORT. One lemma per numeric function that says when it succeeds, with what, and which errors it can answer
(40_numerics.md, 41_translate.md R103, 42_pack.md). -/

namespace Sys2Proof.Machine

/-! ### Operands -/

/-- Every pattern is finite, an infinity or a NaN. -/
theorem fval_cases (b : Word) :
    (∃ q, fval b = .finite q) ∨ fval b = .posInf ∨ fval b = .negInf ∨ fval b = .nan := by
  cases h : fval b <;> simp

/-- The magnitude of a finite pattern in units of the smallest subnormal, `2^(-149)`. -/
def magnitude (b : Word) : Nat :=
  if expField b = 0 then fracField b else (2 ^ 23 + fracField b) * 2 ^ (expField b - 1)

theorem fracField_lt (b : Word) : fracField b < 2 ^ 23 := (b.extractLsb' 0 23).isLt

theorem expField_lt (b : Word) : expField b < 256 := (b.extractLsb' 23 8).isLt

/-- A pattern is its sign, exponent and fraction fields. -/
theorem toNat_eq_fields (b : Word) :
    b.toNat = (if b.msb then 1 else 0) * 2 ^ 31 + expField b * 2 ^ 23 + fracField b := by
  have := b.isLt
  simp only [expField, fracField, BitVec.extractLsb'_toNat, Nat.shiftRight_eq_div_pow, BitVec.msb_eq_decide]
  split <;> simp_all <;> omega

/-- A finite pattern's value, over one common denominator for subnormal and normal numbers. -/
theorem fval_eq_magnitude {b : Word} (h : expField b ≠ 255) :
    fval b = .finite (signFactor b * magnitude b * (2 : ℚ) ^ (-149 : Int)) := by
  unfold fval magnitude
  rw [if_neg h]
  split
  · rfl
  · rename_i he
    have e : ((expField b : Int) - 150) = ((expField b - 1 : Nat) : Int) + (-149) := by omega
    rw [e, zpow_add₀ (by norm_num), zpow_natCast]
    push_cast
    congr 1
    ring

/-- A value is finite exactly for exponent fields below 255. -/
theorem expField_of_fval {b : Word} {q : ℚ} (h : fval b = .finite q) : expField b ≠ 255 := by
  intro he
  unfold fval at h
  rw [if_pos he] at h
  split at h <;> (try split at h) <;> cases h

/-! ### The range guard -/

theorem guardCoef_eq_ok {n m : Int} : guardCoef n = .ok m ↔ n = m ∧ -131072 ≤ m ∧ m ≤ 131071 := by
  unfold guardCoef coefMin coefMax
  split
  · simp; omega
  · simp; omega

theorem guardCoef_eq_error {n : Int} {e : ErrorKind} :
    guardCoef n = .error e ↔ (n < -131072 ∨ 131071 < n) ∧ e = .calibrationRangeError := by
  unfold guardCoef coefMin coefMax
  split
  · simp [eq_comm]; intro _; omega
  · simp; omega

/-! ### `F_mult` (R85) -/

/-- `F_mult` succeeds exactly on a finite `cg` other than -1 whose rounded quotient is in range. -/
theorem fMultWith_eq_ok {r : Config.Range} {cgb : Word} {n : Int} :
    fMultWith r cgb = .ok n ↔ ∃ cg, fval cgb = .finite cg ∧ 1 + cg ≠ 0 ∧
      rhaz ((r.ideal / r.real) / (1 + cg) * 65536) = n ∧ -131072 ≤ n ∧ n ≤ 131071 := by
  unfold fMultWith
  cases fval cgb <;> simp
  split <;> simp [*, guardCoef_eq_ok]

theorem fMultWith_eq_error {r : Config.Range} {cgb : Word} {e : ErrorKind} :
    fMultWith r cgb = .error e → e = .calibrationUnavailable ∨ e = .calibrationRangeError := by
  unfold fMultWith
  cases fval cgb <;> simp +contextual
  split
  · simp +contextual [eq_comm]
  · rw [guardCoef_eq_error]; exact fun h => .inr h.2

/-! ### `F_add` (R86) -/

/-- `F_add` succeeds exactly on finite operands with `cg` other than -1 whose rounded quotient is in range. -/
theorem fAddWith_eq_ok {r : Config.Range} {cab cgb : Word} {n : Int} :
    fAddWith r cab cgb = .ok n ↔ ∃ ca cg, fval cab = .finite ca ∧ fval cgb = .finite cg ∧ 1 + cg ≠ 0 ∧
      rhaz ((-ca * 131072) / (r.real * (1 + cg))) = n ∧ -131072 ≤ n ∧ n ≤ 131071 := by
  unfold fAddWith
  cases fval cab <;> cases fval cgb <;> simp
  split <;> simp [*, guardCoef_eq_ok]

theorem fAddWith_eq_error {r : Config.Range} {cab cgb : Word} {e : ErrorKind} :
    fAddWith r cab cgb = .error e → e = .calibrationUnavailable ∨ e = .calibrationRangeError := by
  unfold fAddWith
  cases fval cab <;> cases fval cgb <;> simp +contextual
  split
  · simp +contextual [eq_comm]
  · rw [guardCoef_eq_error]; exact fun h => .inr h.2

/-! ### `F_v2r` (R88) -/

/-- `F_v2r` answers an error exactly on a NaN. -/
theorem fV2rWith_eq_error {r : Config.Range} {vb : Word} {e : ErrorKind} :
    fV2rWith r vb = .error e ↔ fval vb = .nan ∧ e = .invalidOperand := by
  unfold fV2rWith
  cases fval vb <;> simp [eq_comm]
  split
  · simp
  · split <;> simp

/-! ### `translate_pair` (R103) -/

/-- A pair translates exactly when its entry is defined and both functions succeed on it. -/
theorem translatePairIn_eq_ok {rs : Ranges} {b : Block} {k : Pair} {m a : Int} :
    translatePairIn rs b k = .ok (m, a) ↔
      b.caldef[k] = true ∧ fMultWith (rs (pairGain k)) b.calCg[k] = .ok m ∧
        fAddWith (rs (pairGain k)) b.calCa[k] b.calCg[k] = .ok a := by
  unfold translatePairIn
  cases b.caldef[k]
  · simp
  · rw [if_neg (by decide)]
    cases fMultWith (rs (pairGain k)) b.calCg[k] with
    | error e => dsimp only; split <;> simp
    | ok m' => cases fAddWith (rs (pairGain k)) b.calCa[k] b.calCg[k] with
      | error e => dsimp only; split <;> simp
      | ok a' => simp

/-- The same with the machine's own range constants. -/
theorem translatePair_eq_ok {b : Block} {k : Pair} {m a : Int} :
    translatePair b k = .ok (m, a) ↔
      b.caldef[k] = true ∧ fMult b.calCg[k] (pairGain k) = .ok m ∧
        fAdd b.calCa[k] b.calCg[k] (pairGain k) = .ok a :=
  translatePairIn_eq_ok

/-- A pair that does not translate answers one of two errors. -/
theorem translatePairIn_eq_error {rs : Ranges} {b : Block} {k : Pair} {e : ErrorKind}
    (h : translatePairIn rs b k = .error e) : e = .calibrationUnavailable ∨ e = .calibrationRangeError := by
  unfold translatePairIn at h
  split at h
  · simp_all
  · dsimp only at h
    split at h
    · simp_all
    · split at h
      · cases h
      · rename_i e' hm; cases h; exact fMultWith_eq_error hm
      · rename_i e' ha; cases h; exact fAddWith_eq_error ha

/-- Translation reads nothing but the record. -/
theorem translatePairIn_congr {b b' : Block} (hd : b.caldef = b'.caldef) (hg : b.calCg = b'.calCg)
    (ha : b.calCa = b'.calCa) (rs : Ranges) (k : Pair) : translatePairIn rs b k = translatePairIn rs b' k := by
  unfold translatePairIn; rw [hd, hg, ha]

/-- Writing coefficients does not disturb the record, so it does not disturb a later translation. -/
@[simp] theorem translatePairIn_putCoef (rs : Ranges) (b : Block) (j k : Pair) (m a : Int) :
    translatePairIn rs (putCoef j m a b) k = translatePairIn rs b k := rfl

/-! ### The packing function (R120) -/

theorem fPack_eq_ok {ch : BitVec 8} {v t : Word} :
    fPack ch v = .ok t ↔ ∃ c : Channel, ch.toNat = c.val ∧ packLane c v = t := by
  unfold fPack
  rw [bind_eq_ok]
  simp [channelOf_eq_ok]

theorem fPack_eq_error {ch : BitVec 8} {v : Word} {e : ErrorKind} :
    fPack ch v = .error e ↔ 1 < ch.toNat ∧ e = .invalidChannel := by
  unfold fPack
  rw [bind_eq_error]
  simp [channelOf_eq_error]

end Sys2Proof.Machine
end

