-- ==== Sys2Proof/Laws/Exec.lean ====
section
/-! SUPPORT. What a command can do, said once: `exec` as the end of one effect on the block, one lemma per command for when
and with what its effect succeeds, and what every successful effect leaves alone. -/

namespace Sys2Proof.Machine

/-- What a command makes of the block, or the error it ends with. -/
def effect (i : Instr) (b : Block) : Except ErrorKind Block :=
  match i with
  | .nop => nopOp b
  | .cmult ch gsel => cmultOp gainRange ch gsel b
  | .cadd ch gsel => caddOp gainRange ch gsel b
  | .v2r ch gsel => v2rOp gainRange ch gsel b
  | .pack ch => packOp ch b
  | .setgain ch gsel => setgainOp ch gsel b
  | .setcal ch gsel => setcalOp ch gsel b
  | .clrcal => clrcalOp b
  | .xlt ch gsel => xltOp gainRange ch gsel b
  | .xltall => xltallOp gainRange b

/-- Every command is `runCommand` of its effect. -/
theorem exec_eq_runCommand (i : Instr) (s : State) : exec i s = runCommand s (effect i) := by
  cases i <;> rfl

/-- `exec` answers a next state, which differs in the block only. -/
theorem exec_eq (i : Instr) (s : State) :
    exec i s = .next { s with block := settle s.block (effect i s.block) } :=
  exec_eq_runCommand i s

theorem exec_next_iff {i : Instr} {s t : State} :
    exec i s = .next t ↔ t = { s with block := settle s.block (effect i s.block) } := by
  rw [exec_eq]; simp [eq_comm]

/-! ### When each effect succeeds -/

theorem effect_cmult_ok {ch : BitVec 8} {gsel : GainSel} {b b' : Block} :
    effect (.cmult ch gsel) b = .ok b' ↔ ∃ c : Channel, ch.toNat = c.val ∧ ∃ n,
      fMult b.opa (gselResolve gsel c b) = .ok n ∧ putResult (sext32 n) b = b' := by
  simp [effect, cmultOp, fMult, bind_eq_ok, channelOf_eq_ok]

theorem effect_cadd_ok {ch : BitVec 8} {gsel : GainSel} {b b' : Block} :
    effect (.cadd ch gsel) b = .ok b' ↔ ∃ c : Channel, ch.toNat = c.val ∧ ∃ n,
      fAdd b.opa b.opb (gselResolve gsel c b) = .ok n ∧ putResult (sext32 n) b = b' := by
  simp [effect, caddOp, fAdd, bind_eq_ok, channelOf_eq_ok]

theorem effect_v2r_ok {ch : BitVec 8} {gsel : GainSel} {b b' : Block} :
    effect (.v2r ch gsel) b = .ok b' ↔ ∃ c : Channel, ch.toNat = c.val ∧ ∃ n,
      fV2r b.opa (gselResolve gsel c b) = .ok n ∧ putResult (sext32 n) b = b' := by
  simp [effect, v2rOp, fV2r, bind_eq_ok, channelOf_eq_ok]

theorem effect_pack_ok {ch : BitVec 8} {b b' : Block} :
    effect (.pack ch) b = .ok b' ↔ ∃ c : Channel, ch.toNat = c.val ∧ putResult (packLane c b.opa) b = b' := by
  simp only [effect, packOp, bind_eq_ok, fPack_eq_ok, Except.ok.injEq]
  constructor
  · rintro ⟨t, ⟨c, hc, rfl⟩, h⟩; exact ⟨c, hc, h⟩
  · rintro ⟨c, hc, h⟩; exact ⟨_, ⟨c, hc, rfl⟩, h⟩

theorem effect_setgain_ok {ch : BitVec 8} {gsel : GainSel} {b b' : Block} :
    effect (.setgain ch gsel) b = .ok b' ↔ ∃ g, namedGain gsel = .ok g ∧ ∃ c : Channel, ch.toNat = c.val ∧
      putGain c g b = b' := by
  simp [effect, setgainOp, bind_eq_ok, channelOf_eq_ok]

theorem effect_setcal_ok {ch : BitVec 8} {gsel : GainSel} {b b' : Block} :
    effect (.setcal ch gsel) b = .ok b' ↔ ∃ g, namedGain gsel = .ok g ∧ ∃ c : Channel, ch.toNat = c.val ∧
      putCal (pairIndex c g) b.opa b.opb b = b' := by
  simp [effect, setcalOp, bind_eq_ok, channelOf_eq_ok]

theorem effect_xlt_ok {ch : BitVec 8} {gsel : GainSel} {b b' : Block} :
    effect (.xlt ch gsel) b = .ok b' ↔ ∃ c : Channel, ch.toNat = c.val ∧ ∃ m a,
      translatePair b (pairIndex c (gselResolve gsel c b)) = .ok (m, a) ∧
        putCoef (pairIndex c (gselResolve gsel c b)) m a b = b' := by
  simp [effect, xltOp, translatePair, bind_eq_ok, channelOf_eq_ok]

theorem effect_xltall_ok {b b' : Block} :
    effect .xltall b = .ok b' ↔ ∃ m0 a0 m1 a1 m2 a2 m3 a3,
      translatePair b 0 = .ok (m0, a0) ∧ translatePair b 1 = .ok (m1, a1) ∧
      translatePair b 2 = .ok (m2, a2) ∧ translatePair b 3 = .ok (m3, a3) ∧
      putCoef 3 m3 a3 (putCoef 2 m2 a2 (putCoef 1 m1 a1 (putCoef 0 m0 a0 b))) = b' := by
  simp only [effect, xltallOp, translatePair, bind_eq_ok, Prod.exists, Except.ok.injEq]
  constructor
  · rintro ⟨m0, a0, h0, m1, a1, h1, m2, a2, h2, m3, a3, h3, h⟩
    exact ⟨m0, a0, m1, a1, m2, a2, m3, a3, h0, h1, h2, h3, h⟩
  · rintro ⟨m0, a0, m1, a1, m2, a2, m3, a3, h0, h1, h2, h3, h⟩
    exact ⟨m0, a0, h0, m1, a1, h1, m2, a2, h2, m3, a3, h3, h⟩

/-! ### What every successful effect leaves alone, and every error it can end with -/

/-- A successful effect writes neither operand register nor a sticky flag. -/
theorem effect_ok_frame {i : Instr} {b b' : Block} (h : effect i b = .ok b') :
    b'.opa = b.opa ∧ b'.opb = b.opb ∧ b'.errflags = b.errflags := by
  cases i with
  | nop => cases h; simp
  | cmult ch g => obtain ⟨c, -, n, -, rfl⟩ := effect_cmult_ok.1 h; simp
  | cadd ch g => obtain ⟨c, -, n, -, rfl⟩ := effect_cadd_ok.1 h; simp
  | v2r ch g => obtain ⟨c, -, n, -, rfl⟩ := effect_v2r_ok.1 h; simp
  | pack ch => obtain ⟨c, -, rfl⟩ := effect_pack_ok.1 h; simp
  | setgain ch g => obtain ⟨g, -, c, -, rfl⟩ := effect_setgain_ok.1 h; simp
  | setcal ch g => obtain ⟨g, -, c, -, rfl⟩ := effect_setcal_ok.1 h; simp
  | clrcal => cases h; simp
  | xlt ch g => obtain ⟨c, -, m, a, -, rfl⟩ := effect_xlt_ok.1 h; simp
  | xltall => obtain ⟨m0, a0, m1, a1, m2, a2, m3, a3, -, -, -, -, rfl⟩ := effect_xltall_ok.1 h; simp

/-- The errors a command can end with: never `TransferStartFailure` or `DeviceNotReady` (R141). -/
theorem effect_error_kind {i : Instr} {b : Block} {e : ErrorKind} (h : effect i b = .error e) :
    e ≠ .transferStartFailure ∧ e ≠ .deviceNotReady := by
  have hch : ∀ {ch : BitVec 8} {e}, channelOf ch = .error e → e = .invalidChannel :=
    fun h => (channelOf_eq_error.1 h).2
  have hg : ∀ {g : GainSel} {e}, namedGain g = .error e → e = .illegalCommand := by
    intro g e h; cases g <;> simp_all [eq_comm]
  have htp : ∀ {k : Pair} {e}, translatePairIn gainRange b k = .error e →
      e = .calibrationUnavailable ∨ e = .calibrationRangeError := translatePairIn_eq_error
  cases i <;> simp only [effect, nopOp, cmultOp, caddOp, v2rOp, packOp, setgainOp, setcalOp, clrcalOp, xltOp, xltallOp,
    bind_eq_error, fPack_eq_error, reduceCtorEq, and_false, exists_false, or_false] at h
  case cmult =>
    rcases h with h | ⟨c, -, h⟩
    · simp [hch h]
    · rcases fMultWith_eq_error h with rfl | rfl <;> simp
  case cadd =>
    rcases h with h | ⟨c, -, h⟩
    · simp [hch h]
    · rcases fAddWith_eq_error h with rfl | rfl <;> simp
  case v2r =>
    rcases h with h | ⟨c, -, h⟩
    · simp [hch h]
    · simp [(fV2rWith_eq_error.1 h).2]
  case pack => simp [h.2]
  case setgain =>
    rcases h with h | ⟨g, -, h⟩
    · simp [hg h]
    · simp [hch h]
  case setcal =>
    rcases h with h | ⟨g, -, h⟩
    · simp [hg h]
    · simp [hch h]
  case xlt =>
    rcases h with h | ⟨c, -, h⟩
    · simp [hch h]
    · rcases htp h with rfl | rfl <;> simp
  case xltall =>
    rcases h with h | ⟨_, -, h | ⟨_, -, h | ⟨_, -, h⟩⟩⟩ <;> rcases htp h with rfl | rfl <;> simp

end Sys2Proof.Machine
end

