-- ==== Sys2Proof/Laws/PerInstr.lean ====
section
/-! SUPPORT. Statements per command, about commands as written words: `KeepsLayout` says that the encoder puts the opcode
in `OP` and a zero in every bit that the layout of R60 marks zero for all formats. -/

namespace Sys2Proof.Laws.KeepsLayout

/-- The command word of `i` has the opcode of `i` in bits 7:0, an opcode of R62's map, and zeros in bits 31:18. -/
def Statement (i : Instr) : Prop :=
  opField (encode i) = opcode i ∧ (opcode i).toNat ≤ 9 ∧ (encode i).extractLsb' 18 14 = 0

theorem nop : Statement .nop := by unfold Statement; decide
theorem clrcal : Statement .clrcal := by unfold Statement; decide
theorem xltall : Statement .xltall := by unfold Statement; decide

/-- The two halves of the statement for a format G word. -/
theorem wordG_layout (op ch : BitVec 8) (g : GainSel) :
    opField (wordG op ch g) = op ∧ (wordG op ch g).extractLsb' 18 14 = 0 := by
  constructor <;> ext i hi
  · have h32 : i < 32 := by omega
    have h16 : i < 16 := by omega
    simp [opField, wordG, hi, h32, h16]
  · simp only [wordG, BitVec.truncate_eq_setWidth, BitVec.getElem_extractLsb', BitVec.getLsbD_or,
      BitVec.getLsbD_setWidth, BitVec.getLsbD_shiftLeft]
    rw [BitVec.getLsbD_of_ge op _ (by omega), BitVec.getLsbD_of_ge ch _ (by omega),
      BitVec.getLsbD_of_ge (gselCode g) _ (by omega)]
    simp

/-- The two halves of the statement for a format C word. -/
theorem wordC_layout (op ch : BitVec 8) :
    opField (wordC op ch) = op ∧ (wordC op ch).extractLsb' 18 14 = 0 := by
  constructor <;> ext i hi
  · have h32 : i < 32 := by omega
    simp [opField, wordC, hi, h32]
  · simp only [wordC, BitVec.truncate_eq_setWidth, BitVec.getElem_extractLsb', BitVec.getLsbD_or,
      BitVec.getLsbD_setWidth, BitVec.getLsbD_shiftLeft]
    rw [BitVec.getLsbD_of_ge op _ (by omega), BitVec.getLsbD_of_ge ch _ (by omega)]
    simp

theorem cmult (ch : BitVec 8) (g : GainSel) : Statement (.cmult ch g) :=
  ⟨(wordG_layout 1 ch g).1, by simp [opcode], (wordG_layout 1 ch g).2⟩
theorem cadd (ch : BitVec 8) (g : GainSel) : Statement (.cadd ch g) :=
  ⟨(wordG_layout 2 ch g).1, by simp [opcode], (wordG_layout 2 ch g).2⟩
theorem v2r (ch : BitVec 8) (g : GainSel) : Statement (.v2r ch g) :=
  ⟨(wordG_layout 3 ch g).1, by simp [opcode], (wordG_layout 3 ch g).2⟩
theorem pack (ch : BitVec 8) : Statement (.pack ch) :=
  ⟨(wordC_layout 4 ch).1, by simp [opcode], (wordC_layout 4 ch).2⟩
theorem setgain (ch : BitVec 8) (g : GainSel) : Statement (.setgain ch g) :=
  ⟨(wordG_layout 5 ch g).1, by simp [opcode], (wordG_layout 5 ch g).2⟩
theorem setcal (ch : BitVec 8) (g : GainSel) : Statement (.setcal ch g) :=
  ⟨(wordG_layout 6 ch g).1, by simp [opcode], (wordG_layout 6 ch g).2⟩
theorem xlt (ch : BitVec 8) (g : GainSel) : Statement (.xlt ch g) :=
  ⟨(wordG_layout 8 ch g).1, by simp [opcode], (wordG_layout 8 ch g).2⟩

end Sys2Proof.Laws.KeepsLayout
end

