-- ==== Sys2Proof/Laws/Window.lean ====
section
/-! SUPPORT. The register map (R41): offsets and registers determine each other, and what an access reaches. -/

namespace Sys2Proof.Machine

/-- Every register is found at its own offset. -/
@[simp] theorem regAt_regOffset (r : Reg) : regAt (regOffset r) = some r := by
  cases r with
  | calCg k => revert k; decide
  | calCa k => revert k; decide
  | coefMult k => revert k; decide
  | coefAdd k => revert k; decide
  | _ => rfl

@[simp] theorem accessReg_regOffset (r : Reg) : accessReg 32 (regOffset r) = some r := by
  simp [accessReg]

/-- The converse, over the 128 offsets of the window. -/
theorem regOffset_regAt_all :
    ∀ n : Fin 128, ∀ r ∈ (regAt (BitVec.ofFin n)).toList, regOffset r = BitVec.ofFin n := by decide

/-- An offset at which a register is found is that register's offset. -/
theorem regAt_eq_some {off : BitVec 7} {r : Reg} : regAt off = some r ↔ off = regOffset r := by
  constructor
  · intro h
    exact (regOffset_regAt_all off.toFin r (by simp [h])).symm
  · rintro rfl; exact regAt_regOffset r

/-- What an access reaches (R44): the register at its offset, for a 32-bit access. -/
theorem accessReg_eq_some {w : Nat} {off : BitVec 7} {r : Reg} :
    accessReg w off = some r ↔ w = 32 ∧ off = regOffset r := by
  unfold accessReg
  split <;> simp_all [regAt_eq_some]

@[simp] theorem writeReg_opa_self (b : Block) (v : Word) : writeReg b v .opa = { b with opa := v } := rfl
@[simp] theorem writeReg_opb_self (b : Block) (v : Word) : writeReg b v .opb = { b with opb := v } := rfl
@[simp] theorem writeReg_errflags_self (b : Block) (v : Word) :
    writeReg b v .errflags = { b with errflags := clearErrflags v b.errflags } := rfl

end Sys2Proof.Machine
end

