-- ==== Sys2Proof/Laws/Step.lean ====
section
/-! SUPPORT. What a step can do, said once: the ways a step can go, and that it always answers a next state. -/

namespace Sys2Proof.Machine

/-- A command word run on a state: it touches the block only. An illegal word raises `IllegalCommand`, any other ends the
effect of its command. -/
theorem execWord_eq (w : Word) (s : State) :
    execWord w s = .next { s with block := match decode w with
      | .ok i => settle s.block (effect i s.block)
      | .error _ => raise .illegalCommand s.block } := by
  unfold execWord
  cases decode w with
  | ok i => exact exec_eq i s
  | error r => rfl

/-- What the next event makes of a state `s` whose event is already taken off the queue: one case per kind of event. -/
inductive Took : HostEvent → State → State → Prop where
  | refusedInReset (e : HostEvent) (s : State) (he : e ≠ .assertReset ∧ e ≠ .releaseReset)
      (h : s.resetLine = true) : Took e s (respond .notAccepted s)
  | readData (r : Reg) (s : State) (h : s.resetLine = false) :
      Took (.read 32 (regOffset r)) s (respond (.data (readReg s.block r)) s)
  | readError (width : Nat) (off : BitVec 7) (s : State) (h : s.resetLine = false)
      (hr : accessReg width off = none) : Took (.read width off) s (respond .accessError s)
  | writeStore (r : Reg) (v : Word) (s : State) (h : s.resetLine = false) (hr : r ≠ .cmd) :
      Took (.write 32 (regOffset r) v) s (respond .done { s with block := writeReg s.block v r })
  | writeCommand (w : Word) (i : Instr) (s : State) (h : s.resetLine = false) (hd : decode w = .ok i) :
      Took (cmdWrite w) s { s with block := settle s.block (effect i s.block), response := some .done }
  | writeIllegal (w : Word) (r : Reject) (s : State) (h : s.resetLine = false) (hd : decode w = .error r) :
      Took (cmdWrite w) s { s with block := raise .illegalCommand s.block, response := some .done }
  | writeError (width : Nat) (off : BitVec 7) (v : Word) (s : State) (h : s.resetLine = false)
      (hr : accessReg width off = none) : Took (.write width off v) s (respond .accessError s)
  | assertReset (s : State) : Took .assertReset s (assertReset s)
  | releaseReset (s : State) : Took .releaseReset s (releaseReset s)

/-- An event always leads to a next state, in one of the ways of `Took`. -/
theorem takeEvent_took (e : HostEvent) (s : State) : ∃ t, takeEvent e s = .next t ∧ Took e s t := by
  cases e with
  | assertReset => exact ⟨_, rfl, .assertReset s⟩
  | releaseReset => exact ⟨_, rfl, .releaseReset s⟩
  | read width off =>
    unfold takeEvent
    cases h : s.resetLine
    · simp only [hostRead, Bool.false_eq_true, if_false]
      cases hr : accessReg width off with
      | none => exact ⟨_, rfl, .readError width off s h hr⟩
      | some r => obtain ⟨rfl, rfl⟩ := accessReg_eq_some.1 hr; exact ⟨_, rfl, .readData r s h⟩
    · exact ⟨_, rfl, .refusedInReset _ s (by simp) h⟩
  | write width off v =>
    unfold takeEvent
    cases h : s.resetLine
    · simp only [hostWrite, Bool.false_eq_true, if_false]
      cases hr : accessReg width off with
      | none => exact ⟨_, rfl, .writeError width off v s h hr⟩
      | some r =>
        obtain ⟨rfl, rfl⟩ := accessReg_eq_some.1 hr
        by_cases hc : r = .cmd
        · subst hc
          rw [execWord_eq]
          cases hd : decode v with
          | ok i => exact ⟨_, rfl, .writeCommand v i s h hd⟩
          | error e => exact ⟨_, rfl, .writeIllegal v e s h hd⟩
        · refine ⟨_, ?_, .writeStore r v s h hc⟩
          cases r <;> first | rfl | exact absurd rfl hc
    · exact ⟨_, rfl, .refusedInReset _ s (by simp) h⟩

/-- A step with nothing pending changes nothing. -/
theorem step_idle {s : State} (h : s.pending = []) : step s = .next s := by
  unfold step takeNext; rw [h]

/-- A step with an event pending takes it off the queue and takes it. -/
theorem step_event {s : State} {e : HostEvent} {rest : List HostEvent} (h : s.pending = e :: rest) :
    step s = takeEvent e { s with pending := rest } := by
  unfold step takeNext; rw [h]

/-- Everything a step can do. -/
theorem step_cases {s t : State} (h : step s = .next t) :
    (s.pending = [] ∧ t = s) ∨
      ∃ e rest, s.pending = e :: rest ∧ Took e { s with pending := rest } t := by
  cases hp : s.pending with
  | nil => rw [step_idle hp] at h; cases h; exact .inl ⟨rfl, rfl⟩
  | cons e rest =>
    rw [step_event hp] at h
    obtain ⟨u, hu, ht⟩ := takeEvent_took e { s with pending := rest }
    rw [hu] at h; cases h
    exact .inr ⟨e, rest, rfl, ht⟩

end Sys2Proof.Machine
end

