-- ==== Sys2Proof/Tests/Slice0.lean ====
section
/-! SUPPORT. Tests. Expected values are the spec's own (the opcode map R62, the vectors L1, L2 and programs L3 of
95_test_vectors.md, worked examples of the rules); rows the spec marks LOW* use its default LOW constants, which are an
argument here and no value of the model. After them, for every statement that has hypotheses, one witness that meets
them. -/

namespace Sys2Proof.Tests

open Sys2Proof Sys2Proof.Machine Sys2Proof.Safety

/-! ### Builders -/

/-- The reset state with the two operand registers loaded. -/
def loaded (a b : Word) : State := { State.reset with block := { Block.reset with opa := a, opb := b } }

/-- A state whose next event is the given one. -/
def facing (e : HostEvent) (s : State) : State := { s with pending := e :: s.pending }

/-- A block with all four record entries defined. -/
def record (cg ca : Vector Word 4) : Block :=
  { Block.reset with calCg := cg, calCa := ca, caldef := #v[true, true, true, true] }

/-- Channel 1, HIGH translated from (0.0, 0.01): a machine in use. -/
def inUse : State :=
  { State.reset with
    block :=
      { Block.reset with
        opa := 0x3C23D70A
        opb := 0xBC23D70A
        result := 0x10
        rvalid := true
        errflags := 0x4C
        gain := #v[.low, .high]
        calCa := #v[0, 0, 0, 0x3C23D70A]
        caldef := #v[false, false, false, true]
        coefMult := #v[0, 0, 0, 0x0F09A]
        coefAdd := #v[0, 0, 0, 0x3FF0A]
        coefv := #v[false, false, false, true] } }

/-- The spec's default LOW constants (R6, "LOW*"), beside the HIGH constants. -/
def exampleRanges : Ranges
  | .low => { ideal := 5 / 4, real := 133 / 100, ideal_pos := by norm_num, real_pos := by norm_num }
  | .high => highRange

/-- The outcome is a next state of which `p` holds. -/
def after (o : Outcome) (p : State → Bool) : Bool :=
  match o with
  | .next t => p t
  | .fault _ => false
  | .refused _ => false

theorem exists_of_after {o : Outcome} {p : State → Bool} (h : after o p = true) : ∃ t, o = .next t ∧ p t = true := by
  cases o with
  | next t => exact ⟨t, rfl, h⟩
  | fault r => cases h
  | refused r => cases h

/-- `RESULT` and `STATUS` (R16) after a step. -/
def gives (s : State) (result status : Word) : Bool :=
  after (step s) fun t => t.block.result == result && statusWord t.block == status

/-- The step that takes `e` in `inUse` changes nothing, and the port answers `r`. -/
def answers (e : HostEvent) (r : Response) : Bool :=
  after (step (facing e inUse)) (· == { inUse with response := some r })

/-! ### Encoding: words written out from the layout of R60 (14 zero bits, GSEL, CH, OP) -/

theorem test_decode_nop : decode 0b00000000000000_00_00000000_00000000#32 = .ok .nop := by decide
theorem test_decode_cmult : decode 0b00000000000000_01_00000000_00000001#32 = .ok (.cmult 0 .high) := by decide
theorem test_decode_cadd : decode 0b00000000000000_00_00000001_00000010#32 = .ok (.cadd 1 .low) := by decide
theorem test_decode_v2r : decode 0b00000000000000_10_00000001_00000011#32 = .ok (.v2r 1 .cur) := by decide
theorem test_decode_pack : decode 0b00000000000000_00_11111111_00000100#32 = .ok (.pack 255) := by decide
theorem test_decode_setgain : decode 0b00000000000000_01_00000001_00000101#32 = .ok (.setgain 1 .high) := by decide
theorem test_decode_setcal : decode 0b00000000000000_01_00000000_00000110#32 = .ok (.setcal 0 .high) := by decide
theorem test_decode_clrcal : decode 0b00000000000000_00_00000000_00000111#32 = .ok .clrcal := by decide
theorem test_decode_xlt : decode 0b00000000000000_10_00000001_00001000#32 = .ok (.xlt 1 .cur) := by decide
theorem test_decode_xltall : decode 0b00000000000000_00_00000000_00001001#32 = .ok .xltall := by decide

/-- R64: an unknown opcode, a zero bit set, GSEL = 3, CUR where it is not allowed. -/
theorem test_decode_refuses :
    decode 0xFFFFFFFF = .error .unknownOpcode ∧ decode 0x00000100 = .error .reservedBits ∧
    decode 0x00010004 = .error .reservedBits ∧ decode 0x00030008 = .error .reservedGsel ∧
    decode 0x00020006 = .error .curNotAllowed := by decide

/-- R62, "legal GSEL": the checks of `WellFormed` refuse CUR in SETGAIN and in SETCAL. -/
theorem test_illFormed : ¬ WellFormed (.setgain 0 .cur) ∧ ¬ WellFormed (.setcal 1 .cur) := by decide

theorem test_wellFormed : WellFormed (.setgain 255 .low) ∧ WellFormed (.cmult 2 .cur) := by decide

/-- The first instruction after reset: a word placed for `step` runs. -/
theorem test_withFetchWord :
    after (step (State.reset.withFetchWord 32 0x00010105)) (· ==
      { State.reset with
        response := some .done
        block := { Block.reset with gain := #v[.low, .high] } }) = true := by decide

/-! ### Commands: L2 vectors, one step each -/

/-- L2.5: NOP after an error clears `LASTERR` only. -/
theorem test_nop : gives (facing (cmdWrite 0) { inUse with block := raise .invalidOperand inUse.block }) 0 0x8800 = true := by
  decide

/-- L2.5: NOP with a `CH` bit is illegal. -/
theorem test_nop_illegal : gives (facing (cmdWrite 0x00000100) State.reset) 0 6 = true := by decide

/-- L2.1: the smallest coefficient. -/
theorem test_cmult_limit : gives (facing (cmdWrite 0x00010001) (loaded 0xBFBC2671 0)) 0xFFFE0000 0x10 = true := by
  decide +kernel

/-- L2.1: one pattern further the rounded quotient is -131073. -/
theorem test_cmult_range : gives (facing (cmdWrite 0x00010101) (loaded 0xBFBC2670 0)) 0 2 = true := by decide +kernel

/-- L2.2: the tie -12.5 goes away from zero. -/
theorem test_cadd_tie : gives (facing (cmdWrite 0x00010002) (loaded 0x3A050000 0)) 0xFFFFFFF3 0x10 = true := by
  decide +kernel

/-- L2.2: the guard on `1 + cg` comes before the product (C3). -/
theorem test_cadd_guard : gives (facing (cmdWrite 0x00010002) (loaded 0 0xBF800000)) 0 2 = true := by decide +kernel

/-- L2.3: -0.983 truncates toward zero. -/
theorem test_v2r_trunc : gives (facing (cmdWrite 0x00010003) (loaded 0xBA1D4952 0)) 0 0x10 = true := by decide +kernel

/-- L2.3, LOW*: full scale 1.25, just inside it. -/
theorem test_v2r_low : fV2rWith (exampleRanges .low) 0xBF9FFFFF = .ok (-8191) := by decide +kernel

/-- L2.4: the lane of channel 1. -/
theorem test_pack : gives (facing (cmdWrite 0x00000104) (loaded 0x00001234 0)) 0x000048D0 0x10 = true := by decide

/-- L2.4: channel 2 is no channel. -/
theorem test_pack_channel : gives (facing (cmdWrite 0x00000204) (loaded 5 0)) 0 3 = true := by decide

/-- L2.5: SETGAIN 1, HIGH as `GAIN` reads it. -/
theorem test_setgain :
    after (step (facing (cmdWrite 0x00010105) State.reset)) (fun t => gainWord t.block == 2) = true := by decide

/-- L2.5: SETGAIN 0, CUR is illegal and leaves the gain. -/
theorem test_setgain_cur :
    after (step (facing (cmdWrite 0x00020005) inUse)) (fun t => gainWord t.block == 2 && t.block.lasterr == 6) = true := by
  decide

/-- L2.5: SETCAL 1, HIGH again: `COEFV[3]` drops, the coefficients stay. -/
theorem test_setcal :
    after (step (facing (cmdWrite 0x00010106) inUse)) (fun t =>
      t.block.calCg[3] == 0x3C23D70A && t.block.calCa[3] == 0xBC23D70A && statusWord t.block == 0x810 &&
        t.block.coefMult[3] == 0x0F09A) = true := by decide

/-- L2.5: CLRCAL keeps the coefficients. -/
theorem test_clrcal :
    after (step (facing (cmdWrite 0x00000007) inUse)) (fun t =>
      t.block.calCa[3] == 0 && statusWord t.block == 0x10 && t.block.coefAdd[3] == 0x3FF0A) = true := by decide

/-- L2.5: XLT 1, HIGH of (0.01, -0.01). -/
theorem test_xlt :
    after (exec (.xlt 1 .high) ⟨record #v[0, 0, 0, 0x3C23D70A] #v[0, 0, 0, 0xBC23D70A], false, [], none⟩) (fun t =>
      t.block.coefMult[3] == 0x0EE38 && t.block.coefAdd[3] == 0x000F4 && statusWord t.block == 0x8F00) = true := by
  decide +kernel

/-- P3: XLT of an entry with `1 + cg = 0` writes no coefficient. -/
theorem test_xlt_range :
    after (exec (.xlt 0 .high) ⟨record #v[0, 0xBF800000, 0, 0] #v[0, 0, 0, 0], false, [], none⟩) (fun t =>
      t.block.coefMult[1] == 0 && t.block.lasterr == 2 && t.block.errflags == 0x04) = true := by decide +kernel

/-- P1's record, whose LOW pairs take the LOW* constants. -/
def p1 : State :=
  ⟨record #v[0x3C23D70A, 0xBC23D70A, 0, 0x3D4CCCCD] #v[0x3CA3D70A, 0xBBA3D70A, 0, 0x3C23D70A], false, [], none⟩

/-- P1: XLTALL. -/
theorem test_xltall :
    after (runCommand p1 (xltallOp exampleRanges)) (fun t =>
      t.block.coefMult == #v[0x0EE38, 0x0F308, 0x0F09A, 0x0E525] &&
        t.block.coefAdd == #v[0x3F861, 0x0007C, 0x00000, 0x3FF15] && statusWord t.block == 0xFF00) = true := by
  decide +kernel

/-- L2.5: XLTALL from reset. -/
theorem test_xltall_undefined :
    after (exec .xltall State.reset) (fun t => t.block.lasterr == 1 && t.block.errflags == 0x02) = true := by decide

/-! ### Numerics and register access -/

/-- L2.1: the row of both gains; L2.2, LOW*: rounding past one half. -/
theorem test_low_constants :
    fMultWith (exampleRanges .low) 0x3C23D70A = .ok 60984 ∧
    fAddWith (exampleRanges .low) 0x3C23D70A 0 = .ok (-986) := by decide +kernel

/-- R82's and R83's examples at negative values. -/
theorem test_rounding : rhaz (-5 / 2) = -3 ∧ rhaz (-24999 / 10000) = -2 ∧ trunc (-16384 / 10) = -1638 := by
  decide +kernel

/-- L2.6: write-1-to-clear, with the upper data bits ignored. -/
theorem test_errflags_w1c :
    after (step (facing (.write 32 0x08 0x00000004) inUse)) (fun t => t.block.errflags == 0x48) = true ∧
    after (step (facing (.write 32 0x08 0xFFFFFF00) inUse)) (fun t => t.block.errflags == 0x4C) = true := by decide

/-- L2.6: writes to read-only registers are ignored without an error. -/
theorem test_readOnly :
    answers (.write 32 0x14 0x12345678) .done = true ∧
    answers (.write 32 0x18 3) .done = true := by decide

/-- L2.6: reserved, misaligned and narrow accesses. -/
theorem test_accessError :
    answers (.read 32 0x1C) .accessError = true ∧
    answers (.write 32 0x7C 0) .accessError = true ∧
    answers (.read 32 0x06) .accessError = true ∧
    answers (.read 16 0x04) .accessError = true := by decide

/-- P1's reads of coefficient registers: zero-extended. -/
theorem test_readCoef : answers (.read 32 0x5C) (.data 0x0003FF0A) = true := by
  decide

/-- R69's `setcal`, with P1's first pair: the accesses it stands for. -/
theorem test_pseudo :
    (expand (.setcal 0 .low 0x3C23D70A 0x3CA3D70A)).map stmtEvent =
      [.write 32 0x0C 0x3C23D70A, .write 32 0x10 0x3CA3D70A, .write 32 0x00 0x00000006, .read 32 0x04] := by decide


/-! ### Witnesses -/

theorem exists_next {o : Outcome} {P : State → Prop} [DecidablePred P] (h : after o (fun t => decide (P t)) = true) :
    ∃ t, o = .next t ∧ P t := by
  obtain ⟨t, ht, hp⟩ := exists_of_after h
  exact ⟨t, ht, of_decide_eq_true hp⟩

theorem inv_inUse : Inv inUse where
  block :=
    { inStep := by
        intro k hk
        have : k = 3 := by revert hk; revert k; decide
        subst this
        exact ⟨rfl, 61594, -246, by decide +kernel, by decide +kernel, by decide, by decide⟩
      fromTranslation := by
        have h3 : CoefFromTranslation inUse.block 3 :=
          ⟨.inr ⟨0, 61594, by decide +kernel, by decide⟩, .inr ⟨0x3C23D70A, 0, -246, by decide +kernel, by decide⟩⟩
        intro k
        match k with
        | 0 => exact ⟨.inl rfl, .inl rfl⟩
        | 1 => exact ⟨.inl rfl, .inl rfl⟩
        | 2 => exact ⟨.inl rfl, .inl rfl⟩
        | 3 => exact h3
      errflags := by unfold ErrflagsHardwired; decide
      lasterr := by unfold LasterrLegal; decide }
  held := by intro h; cases h

/-- `inUse` with an event ahead is in the invariant as well. -/
theorem inv_facing (e : HostEvent) : Inv (facing e inUse) := ⟨inv_inUse.block, inv_inUse.held⟩

theorem not_nextReset (w : Nat) (off : BitVec 7) (v : Word) : ¬ NextReset (facing (.write w off v) inUse) := by
  rintro ⟨rest, h | h⟩ <;> simp [facing] at h

/-! Command words -/

theorem test_witness_decodeOfEncode : WellFormed (.setgain 255 .high) ∧ WellFormed (.xlt 0 .cur) := by decide

theorem test_witness_encodeOfDecode :
    decode 0x0001FF05 = .ok (.setgain 255 .high) ∧ decode 0x00020008 = .ok (.xlt 0 .cur) := by decide

/-- Each line of R64's list, at a boundary. -/
theorem test_witness_illegalWords :
    (IllegalWord 0x0000000A ∧ IllegalWord 0x00000100 ∧ IllegalWord 0x80000009 ∧ IllegalWord 0x00010004 ∧
      IllegalWord 0x00040001 ∧ IllegalWord 0x00030001 ∧ IllegalWord 0x00020005 ∧ IllegalWord 0x00020006) ∧
    (facing (cmdWrite 0x0A) inUse).resetLine = false ∧
    (facing (cmdWrite 0x0A) inUse).pending = cmdWrite 0x0A :: [] :=
  ⟨by simp [IllegalWord], rfl, rfl⟩

theorem test_witness_stepRuns :
    (facing (cmdWrite 0x00010105) inUse).resetLine = false ∧
    (facing (cmdWrite 0x00010105) inUse).pending = cmdWrite 0x00010105 :: [] ∧
    decode 0x00010105 = .ok (.setgain 1 .high) := by decide

theorem test_witness_statementsWrite : namedGain .low = .ok .low ∧ namedGain .high = .ok .high := by decide

/-! Reset, invariants, the window -/

theorem test_witness_stepKeepsInvariant :
    Inv (facing (cmdWrite 0x00010106) inUse) ∧
    ∃ t, step (facing (cmdWrite 0x00010106) inUse) = .next t ∧ t.block.calCg[3] = 0x3C23D70A :=
  ⟨inv_facing _, exists_next (by decide)⟩

/-- And a state with the reset input asserted, in which an access is turned away. -/
theorem test_witness_stepKeepsInvariant_held :
    Inv { State.reset with resetLine := true, pending := [cmdWrite 9] } ∧
    ∃ t, step { State.reset with resetLine := true, pending := [cmdWrite 9] } = .next t ∧
      t.response = some .notAccepted :=
  ⟨{ block :=
      { inStep := by intro k hk; match k with | 0 | 1 | 2 | 3 => cases hk
        fromTranslation := by intro k; match k with | 0 | 1 | 2 | 3 => exact ⟨.inl rfl, .inl rfl⟩
        errflags := by unfold ErrflagsHardwired; decide
        lasterr := by unfold LasterrLegal; decide }
     held := fun _ => rfl }, exists_next (by decide)⟩

theorem test_witness_resetPulse :
    { inUse with pending := [.assertReset, .releaseReset] }.pending = .assertReset :: .releaseReset :: [] ∧
    (cmdWrite 7 = .read 32 0 ∨ cmdWrite 7 = .write 32 0 7) ∧
    { inUse with pending := [.assertReset, cmdWrite 7] }.pending = .assertReset :: cmdWrite 7 :: [] := by decide

theorem test_witness_errflagsRead : Inv inUse := inv_inUse

/-- A read followed by the same read, and one (refused) followed by a command. -/
theorem test_witness_reads :
    { inUse with pending := [.read 32 0x14, .read 32 0x14] }.pending = .read 32 0x14 :: [.read 32 0x14] ∧
    [HostEvent.read 32 0x14] = .read 32 0x14 :: [] ∧
    { inUse with pending := [.read 16 0x1C, cmdWrite 7] }.pending = .read 16 0x1C :: [cmdWrite 7] := ⟨rfl, rfl, rfl⟩

theorem test_witness_writes :
    ∀ off ∈ ([0x04, 0x14, 0x18, 0x20, 0x5C] : List (BitVec 7)), off = 0x04 ∨ off = 0x14 ∨ off = 0x18 ∨
      (off.toNat % 4 = 0 ∧ 0x20 ≤ off.toNat ∧ off.toNat ≤ 0x5C) := by decide

/-- Each line of R44's list, at a boundary, and its neighbours that are no malformed access. -/
theorem test_witness_malformed :
    MalformedAccess 16 0x04 ∧ MalformedAccess 32 0x06 ∧ MalformedAccess 32 0x1C ∧ MalformedAccess 32 0x60 ∧
    MalformedAccess 32 0x7F ∧ ¬ MalformedAccess 32 0x18 ∧ ¬ MalformedAccess 32 0x20 ∧ ¬ MalformedAccess 32 0x5C ∧
    (facing (.read 32 0x1C) inUse).resetLine = false ∧ (facing (.read 32 0x1C) inUse).pending = .read 32 0x1C :: [] := by
  unfold MalformedAccess; decide

theorem test_witness_laterAccesses :
    ∃ t, Host.Core.run core [HostEvent.write 32 0x0C 5].length
        { inUse with pending := [.write 32 0x0C 5] ++ [cmdWrite 4] } = .next t ∧ t.block.opa = 5 :=
  exists_next (P := fun t => t.block.opa = 5) (by decide)

/-! Errors -/

theorem test_witness_channel : 2 ≤ (2 : BitVec 8).toNat ∧ 2 ≤ (255 : BitVec 8).toNat ∧ GainSel.high ≠ .cur := by decide

theorem test_witness_rvalid :
    (∃ t, exec (.pack 2) inUse = .next t ∧ t.block.lasterr ≠ 0) ∧
    (∃ t, exec (.pack 1) inUse = .next t ∧ t.block.lasterr = 0 ∧ producesResult (.pack 1) = true) ∧
    (∃ t, exec .clrcal inUse = .next t ∧ t.block.lasterr = 0 ∧ producesResult .clrcal = false) :=
  ⟨exists_next (by decide), exists_next (by decide), exists_next (by decide)⟩

theorem test_witness_rvalid_others :
    (∃ t, step (facing (.write 32 0x0C 5) inUse) = .next t ∧ t.block.opa = 5) ∧
    ¬ NextReset (facing (.write 32 0x0C 5) inUse) ∧
    ∀ w rest, (facing (.write 32 0x0C 5) inUse).pending ≠ cmdWrite w :: rest :=
  ⟨exists_next (by decide), not_nextReset _ _ _, by intro w rest h; simp [facing, cmdWrite, regOffset] at h⟩

theorem test_witness_sticky :
    (∃ t, step (facing (cmdWrite 0) inUse) = .next t ∧ t.block.errflags.getLsbD 2 = true) ∧
    (∃ t, step (facing (.write 32 0x08 4) inUse) = .next t ∧ t.block.errflags.getLsbD 2 = false) ∧
    ¬ NextReset (facing (cmdWrite 0) inUse) ∧ ¬ NextReset (facing (.write 32 0x08 4) inUse) ∧
    inUse.block.errflags.getLsbD (2 : Fin 8).val = true :=
  ⟨exists_next (by decide), exists_next (by decide), not_nextReset _ _ _, not_nextReset _ _ _, by decide⟩

/-- A failed command, one with a result, one without: each from two states that differ in the error registers. -/
theorem test_witness_pastErrors :
    ∀ i ∈ [Instr.pack 2, .pack 1, .clrcal],
      (∃ t, exec i inUse = .next t ∧ t.block.opa = 0x3C23D70A) ∧
      ∃ t, exec i { inUse with block := { inUse.block with lasterr := 6, errflags := 0, result := 7, rvalid := false } }
        = .next t ∧ t.block.opa = 0x3C23D70A := by
  intro i hi
  simp only [List.mem_cons, List.not_mem_nil, or_false] at hi
  rcases hi with rfl | rfl | rfl <;> exact ⟨exists_next (by decide), exists_next (by decide)⟩

/-! Who writes what -/

theorem test_witness_leaveOperands : ∃ t, exec (.setcal 1 .low) inUse = .next t ∧ t.block.calCg[2] = 0x3C23D70A :=
  exists_next (by decide)

theorem test_witness_gainChanges :
    (∃ t, step (facing (cmdWrite 0x00000105) inUse) = .next t ∧
      t.block.gain[(1 : Channel)] ≠ inUse.block.gain[(1 : Channel)]) ∧
    (∃ t, step (facing .assertReset inUse) = .next t ∧ t.block.gain[(1 : Channel)] ≠ inUse.block.gain[(1 : Channel)]) :=
  ⟨exists_next (by decide), exists_next (by decide)⟩

/-- By SETCAL (both halves and the flag), by CLRCAL, by reset. -/
theorem test_witness_recordChanges :
    (∃ t, step (facing (cmdWrite 0x00000006) inUse) = .next t ∧
      (t.block.calCg[(0 : Pair)] ≠ inUse.block.calCg[(0 : Pair)] ∧
        t.block.calCa[(0 : Pair)] ≠ inUse.block.calCa[(0 : Pair)] ∧
        t.block.caldef[(0 : Pair)] ≠ inUse.block.caldef[(0 : Pair)])) ∧
    (∃ t, step (facing (cmdWrite 0x00000007) inUse) = .next t ∧
      t.block.calCa[(3 : Pair)] ≠ inUse.block.calCa[(3 : Pair)]) ∧
    (∃ t, step (facing .assertReset inUse) = .next t ∧
      t.block.calCa[(3 : Pair)] ≠ inUse.block.calCa[(3 : Pair)]) :=
  ⟨exists_next (by decide), exists_next (by decide), exists_next (by decide)⟩

/-- Channel 1, HIGH defined as (0.01, -0.01) and not translated, an XLT of it ahead. -/
def beforeXlt : State :=
  facing (cmdWrite 0x00010108) ⟨record #v[0, 0, 0, 0x3C23D70A] #v[0, 0, 0, 0xBC23D70A], false, [], none⟩

theorem test_witness_coefficientsChange :
    (∃ t, step beforeXlt = .next t ∧
      (t.block.coefMult[(3 : Pair)] ≠ beforeXlt.block.coefMult[(3 : Pair)] ∧
        t.block.coefAdd[(3 : Pair)] ≠ beforeXlt.block.coefAdd[(3 : Pair)])) ∧
    (∃ t, step (facing .assertReset inUse) = .next t ∧
      t.block.coefAdd[(3 : Pair)] ≠ inUse.block.coefAdd[(3 : Pair)]) :=
  ⟨exists_next (by decide +kernel), exists_next (by decide)⟩

/-- `COEFV[3]` rises by XLT; it falls by SETCAL, CLRCAL and reset. -/
theorem test_witness_coefv :
    (∃ t, step beforeXlt = .next t ∧ beforeXlt.block.coefv[(3 : Pair)] = false ∧ t.block.coefv[(3 : Pair)] = true) ∧
    ∀ e ∈ [cmdWrite 0x00010106, cmdWrite 0x00000007, .assertReset],
      ∃ t, step (facing e inUse) = .next t ∧ inUse.block.coefv[(3 : Pair)] = true ∧ t.block.coefv[(3 : Pair)] = false := by
  refine ⟨exists_next (by decide +kernel), ?_⟩
  intro e he
  simp only [List.mem_cons, List.not_mem_nil, or_false] at he
  rcases he with rfl | rfl | rfl <;> exact exists_next (by decide)

/-! Commands -/

theorem test_witness_nop :
    (0x00000100 : Word).toNat % 256 = 0 ∧ (0x00000100 : Word) ≠ 0 ∧ Instr.clrcal ≠ .nop := by decide

/-- The largest and the smallest coefficient, by HIGH and by CUR naming HIGH. -/
theorem test_witness_cmultResult :
    (0 : BitVec 8).toNat = (0 : Channel).val ∧ gselResolve .high 0 (loaded 0xBF07B2E3 0).block = .high ∧
    gselResolve .cur 1 inUse.block = .high ∧
    (∀ x ∈ [((0xBF07B2E3 : Word), (-8893155 / 16777216 : ℚ), (131071 : Int)),
        (0xBFBC2671, -12330609 / 8388608, -131072), (0x00000000, 0, 61594)],
      fval (loaded x.1 0).block.opa = .finite x.2.1 ∧ 1 + x.2.1 ≠ 0 ∧
      x.2.2 = rhaz ((gainRange .high).ideal / (gainRange .high).real / (1 + x.2.1) * 65536) ∧
      -131072 ≤ x.2.2 ∧ x.2.2 ≤ 131071) := by decide +kernel

/-- An infinity and a NaN; the divisor 0; one beyond each limit. -/
theorem test_witness_cmultErrors :
    (0 : BitVec 8).toNat = (0 : Channel).val ∧ gselResolve .high 0 (loaded 0x7F800000 0).block = .high ∧
    fval (loaded 0x7F800000 0).block.opa = .posInf ∧ fval (loaded 0x7FC00000 0).block.opa = .nan ∧
    fval (loaded 0xBF800000 0).block.opa = .finite (-1) ∧ (1 : ℚ) + -1 = 0 ∧
    fval (loaded 0xBF07B2E4 0).block.opa = .finite (-2223289 / 4194304) ∧
    131071 < rhaz ((gainRange .high).ideal / (gainRange .high).real / (1 + -2223289 / 4194304) * 65536) ∧
    fval (loaded 0xBFBC2670 0).block.opa = .finite (-770663 / 524288) ∧
    rhaz ((gainRange .high).ideal / (gainRange .high).real / (1 + -770663 / 524288) * 65536) < -131072 := by
  decide +kernel

/-- The lower limit, and a tie. -/
theorem test_witness_caddResult :
    (1 : BitVec 8).toNat = (1 : Channel).val ∧ gselResolve .high 1 (loaded 0x40AA3D71 0).block = .high ∧
    fval (loaded 0x40AA3D71 0).block.opb = .finite 0 ∧ (1 : ℚ) + 0 ≠ 0 ∧
    (∀ x ∈ [((0x40AA3D71 : Word), (11156849 / 2097152 : ℚ), (-131072 : Int)), (0x3A050000, 133 / 262144, -13)],
      fval (loaded x.1 0).block.opa = .finite x.2.1 ∧
      x.2.2 = rhaz (-x.2.1 * 131072 / ((gainRange .high).real * (1 + 0))) ∧
      -131072 ≤ x.2.2 ∧ x.2.2 ≤ 131071) := by decide +kernel

/-- A non-finite half each; `1 + cg = 0` with `ca = 0` (C3); one beyond the upper and well beyond the lower limit. -/
theorem test_witness_caddErrors :
    (1 : BitVec 8).toNat = (1 : Channel).val ∧ gselResolve .high 1 (loaded 0 0xBF800000).block = .high ∧
    fval (loaded 0x7F800000 0).block.opa = .posInf ∧ fval (loaded 0 0xFFC00000).block.opb = .nan ∧
    fval (loaded 0 0xBF800000).block.opa = .finite 0 ∧ fval (loaded 0 0xBF800000).block.opb = .finite (-1) ∧
    fval (loaded 0xC0AA3D71 0).block.opa = .finite (-11156849 / 2097152) ∧
    131071 < rhaz (- (-11156849 / 2097152) * 131072 / ((gainRange .high).real * (1 + 0))) ∧
    fval (loaded 0x40C00000 0).block.opa = .finite 6 ∧
    rhaz (-6 * 131072 / ((gainRange .high).real * (1 + 0))) < -131072 := by decide +kernel

/-- Both infinities, both ends of full scale, and the pattern just inside it. -/
theorem test_witness_v2rResult :
    (0 : BitVec 8).toNat = (0 : Channel).val ∧
    (5 : ℚ) = (gainRange (gselResolve .high 0 (loaded 0 0).block)).ideal ∧
    fval (loaded 0x7F800000 0).block.opa = .posInf ∧ fval (loaded 0xFF800000 0).block.opa = .negInf ∧
    fval (loaded 0x40A00000 0).block.opa = .finite 5 ∧ (5 : ℚ) ≤ 5 ∧
    fval (loaded 0xC0A00000 0).block.opa = .finite (-5) ∧ (-5 : ℚ) ≤ -5 ∧
    fval (loaded 0x409FFFFF 0).block.opa = .finite (10485759 / 2097152) ∧
    (-5 : ℚ) < 10485759 / 2097152 ∧ (10485759 / 2097152 : ℚ) < 5 := by decide +kernel

theorem test_witness_v2rRaises :
    (1 : BitVec 8).toNat = (1 : Channel).val ∧ fval (loaded 0xFFC00001 0).block.opa = .nan ∧
    fval (loaded 0xFF800000 0).block.opa ≠ .nan := by decide +kernel

theorem test_witness_pack : ((0 : BitVec 8) = 0 ∧ 4 = 4 ∨ (0 : BitVec 8) = 1 ∧ 4 = 2) ∧
    ((1 : BitVec 8) = 0 ∧ 2 = 4 ∨ (1 : BitVec 8) = 1 ∧ 2 = 2) := by decide

theorem test_witness_setgain :
    (1 : BitVec 8).toNat = (1 : Channel).val ∧ (0 : BitVec 8).toNat = (0 : Channel).val ∧
    (∀ x ∈ [(GainSel.low, Gain.low), (.high, .high)],
      x.1 = .low ∧ x.2 = .low ∨ x.1 = .high ∧ x.2 = .high) := by decide

theorem test_witness_setcal :
    ∀ x ∈ [((0 : BitVec 8), GainSel.low, (0 : Pair)), (0, .high, 1), (1, .low, 2), (1, .high, 3)],
      x.2.1 = .low ∧ x.2.2.val = 2 * x.1.toNat ∨ x.2.1 = .high ∧ x.2.2.val = 2 * x.1.toNat + 1 := by decide

/-- By HIGH, and by CUR naming HIGH. -/
theorem test_witness_xltResult :
    (1 : BitVec 8).toNat = (1 : Channel).val ∧ gselResolve .high 1 inUse.block = .high ∧
    gselResolve .cur 1 inUse.block = .high ∧ (3 : Pair) = pairIndex 1 .high ∧
    inUse.block.caldef[(3 : Pair)] = true ∧ fMult inUse.block.calCg[(3 : Pair)] .high = .ok 61594 ∧
    fAdd inUse.block.calCa[(3 : Pair)] inUse.block.calCg[(3 : Pair)] .high = .ok (-246) := by decide +kernel

/-- Undefined; each half non-finite; `1 + cg = 0`; each coefficient out of range. Pair 1, by HIGH. -/
theorem test_witness_xltErrors :
    (0 : BitVec 8).toNat = (0 : Channel).val ∧ gselResolve .high 0 inUse.block = .high ∧ (1 : Pair) = pairIndex 0 .high ∧
    inUse.block.caldef[(1 : Pair)] = false ∧
    fval (record #v[0, 0x7F800000, 0, 0] #v[0, 0, 0, 0]).calCg[(1 : Pair)] = .posInf ∧
    fval (record #v[0, 0, 0, 0] #v[0, 0x7FC00000, 0, 0]).calCa[(1 : Pair)] = .nan ∧
    (record #v[0, 0xBF800000, 0, 0] #v[0, 0, 0, 0]).caldef[(1 : Pair)] = true ∧
    fval (record #v[0, 0xBF800000, 0, 0] #v[0, 0, 0, 0]).calCg[(1 : Pair)] = .finite (-1) ∧ (1 : ℚ) + -1 = 0 ∧
    fval (record #v[0, 0xBF800000, 0, 0] #v[0, 0, 0, 0]).calCa[(1 : Pair)] = .finite 0 ∧
    fval (record #v[0, 0xBF07B2E4, 0, 0] #v[0, 0, 0, 0]).calCg[(1 : Pair)] = .finite (-2223289 / 4194304) ∧
    131071 < rhaz ((gainRange .high).ideal / (gainRange .high).real / (1 + -2223289 / 4194304) * 65536) ∧
    fval (record #v[0, 0, 0, 0] #v[0, 0x40C00000, 0, 0]).calCa[(1 : Pair)] = .finite 6 ∧
    rhaz (-6 * 131072 / ((gainRange .high).real * (1 + 0))) < -131072 := by decide +kernel

/-- P1's record under the spec's default LOW constants. -/
theorem test_witness_xltallResult :
    ∀ k : Pair, p1.block.caldef[k] = true ∧
      fMultWith (exampleRanges (pairGain k)) p1.block.calCg[k] = .ok ((#v[60984, 62216, 61594, 58661] : Vector Int 4)[k]) ∧
      fAddWith (exampleRanges (pairGain k)) p1.block.calCa[k] p1.block.calCg[k] =
        .ok ((#v[-1951, 124, 0, -235] : Vector Int 4)[k]) := by decide +kernel

/-- The machine's own constants: whatever LOW is, as long as `IDEAL` is at most `REAL` there, a record of zeros
translates. -/
theorem test_witness_xltall_machine (h : lowRange.ideal ≤ lowRange.real) :
    ∀ k : Pair, ∃ m a : Int, fMultWith (gainRange (pairGain k)) (0 : Word) = .ok m ∧
      fAddWith (gainRange (pairGain k)) (0 : Word) (0 : Word) = .ok a := by
  have hz : fval (0 : Word) = .finite 0 := by decide +kernel
  have key : ∀ r : Config.Range, r.ideal ≤ r.real →
      ∃ m a : Int, fMultWith r (0 : Word) = .ok m ∧ fAddWith r (0 : Word) (0 : Word) = .ok a := by
    intro r hr
    have q0 : 0 < r.ideal / r.real := div_pos r.ideal_pos r.real_pos
    have q1 : r.ideal / r.real ≤ 1 := (div_le_one r.real_pos).2 hr
    refine ⟨_, 0, fMultWith_eq_ok.2 ⟨0, hz, by norm_num, rfl, ?_, ?_⟩,
      fAddWith_eq_ok.2 ⟨0, 0, hz, hz, by norm_num, ?_, by norm_num, by norm_num⟩⟩
    · rw [rhaz, if_pos (by positivity)]
      have : (0 : Int) ≤ ⌊r.ideal / r.real / (1 + 0) * 65536 + 1 / 2⌋ := Int.floor_nonneg.2 (by positivity)
      exact le_trans (by norm_num) this
    · rw [rhaz, if_pos (by positivity)]
      have : ⌊r.ideal / r.real / (1 + 0) * 65536 + 1 / 2⌋ < 131072 :=
        Int.floor_lt.2 (by push_cast; rw [add_zero, div_one]; linarith)
      exact Int.le_of_lt_add_one this
    · norm_num [rhaz]
      decide +kernel
  intro k
  have hk : pairGain k = .low ∨ pairGain k = .high := by cases pairGain k <;> simp
  rcases hk with hk | hk <;> rw [hk]
  · exact key _ h
  · exact key _ (by norm_num [gainRange, highRange])

/-- Pair 1 bad with pair 0 good, under the default LOW constants; and pair 0 bad, with the machine's own. -/
theorem test_witness_xltallLowest :
    translatePairIn exampleRanges (record #v[0, 0xBF800000, 0, 0] #v[0, 0, 0, 0]) 1 = .error .calibrationRangeError ∧
    translatePairIn exampleRanges (record #v[0, 0xBF800000, 0, 0] #v[0, 0, 0, 0]) 0 = .ok (61594, 0) ∧
    (∀ j : Pair, j < 1 → j = 0) ∧
    translatePairIn gainRange Block.reset 0 = .error .calibrationUnavailable ∧ (∀ j : Pair, ¬ j < 0) :=
  ⟨by decide +kernel, by decide +kernel, by decide, rfl, by decide⟩

theorem test_witness_xltallFour :
    (∀ k : Pair, translatePairIn exampleRanges p1.block k =
      .ok ((#v[60984, 62216, 61594, 58661] : Vector Int 4)[k], (#v[-1951, 124, 0, -235] : Vector Int 4)[k])) ∧
    [((1 : BitVec 8), GainSel.high), (1, .low), (0, .high), (0, .low)].Perm
      [(0, .low), (0, .high), (1, .low), (1, .high)] := by
  refine ⟨by decide +kernel, by decide⟩

/-- CUR in both channels; and a named gain that neither channel has, with both legal channels. -/
theorem test_witness_cur :
    (1 : BitVec 8).toNat = (1 : Channel).val ∧ namedGain .high = .ok inUse.block.gain[(1 : Channel)] ∧
    (0 : BitVec 8).toNat = (0 : Channel).val ∧ namedGain .low = .ok inUse.block.gain[(0 : Channel)] ∧
    State.reset.block.gain = #v[.low, .low] ∧ GainSel.high ≠ .cur ∧
    (0 : BitVec 8).toNat < 2 ∧ (1 : BitVec 8).toNat < 2 := by decide

theorem test_witness_gainChange :
    (0 : BitVec 8).toNat = (0 : Channel).val ∧ GainSel.high ≠ .cur ∧
    ∃ t, exec (.setgain 0 .high) inUse = .next t ∧ t.block.gain[0] = .high :=
  ⟨by decide, by decide, exists_next (by decide)⟩

/-- Two states with the same operands whose gains differ: channel 1 of `inUse` is HIGH, and HIGH is named in a state with
both gains LOW. -/
theorem test_witness_pure :
    inUse.block.opa = (loaded 0x3C23D70A 0xBC23D70A).block.opa ∧ inUse.block.opb = (loaded 0x3C23D70A 0xBC23D70A).block.opb ∧
    inUse.block.gain ≠ (loaded 0x3C23D70A 0xBC23D70A).block.gain ∧
    (1 : BitVec 8).toNat = (1 : Channel).val ∧ (0 : BitVec 8).toNat = (0 : Channel).val ∧
    gselResolve .cur 1 inUse.block = gselResolve .high 0 (loaded 0x3C23D70A 0xBC23D70A).block := by decide

/-! Numerics -/

/-- Both infinities, NaNs, the zeros and subnormals, the smallest and the largest normal numbers. -/
theorem test_witness_fval :
    ∀ x ∈ [(0, 255, 0, (0x7F800000 : Word)), (1, 255, 0, 0xFF800000), (0, 255, 1, 0x7F800001),
        (1, 255, 2 ^ 23 - 1, 0xFFFFFFFF), (0, 0, 0, 0), (1, 0, 1, 0x80000001), (0, 0, 2 ^ 23 - 1, 0x007FFFFF),
        (0, 1, 0, 0x00800000), (1, 254, 2 ^ 23 - 1, 0xFF7FFFFF)],
      x.1 < 2 ∧ x.2.1 < 256 ∧ x.2.2.1 < 2 ^ 23 ∧
        x.2.2.2 = BitVec.ofNat 32 (x.1 * 2 ^ 31 + x.2.1 * 2 ^ 23 + x.2.2.1) := by decide

theorem test_witness_fval_injective :
    fval 0x00000000 = .finite 0 ∧ fval 0x80000000 = .finite 0 ∧ fval 0x3F800000 = .finite 1 := by decide +kernel

theorem test_witness_rounding :
    (0 : ℚ) ≤ 0 ∧ (-1 / 2 : ℚ) < 0 ∧ (0 : Int) < 2 ∧ (-1 / 2 : ℚ) ≤ -1 / 2 ∧
    |((0 : Int) : ℚ) - 1 / 2| ≤ 1 / 2 ∧ (0 : Int) ≠ rhaz (1 / 2) := by
  refine ⟨le_refl _, by norm_num, by norm_num, le_refl _, ?_, by decide +kernel⟩
  rw [abs_le]; constructor <;> norm_num

theorem test_witness_divisor :
    fval 0xBF800000 = .finite (-1) ∧ (1 : ℚ) + -1 = 0 ∧ fval 0x3F800000 = .finite 1 ∧ (1 : ℚ) + 1 ≠ 0 := by
  decide +kernel

theorem test_witness_fit :
    fMult 0xBF07B2E3 .high = .ok 131071 ∧ fAdd 0x40AA3D71 0 .high = .ok (-131072) := by decide +kernel

theorem test_witness_zeroAdditive :
    fval 0x3E99999A = .finite (5033165 / 16777216) ∧ (5033165 / 16777216 : ℚ) ≠ -1 ∧
    fval 0xBF800000 = .finite (-1) ∧ ((0x80000000 : Word) = 0x00000000 ∨ (0x80000000 : Word) = 0x80000000) := by
  decide +kernel

/-- A pair inside full scale, and a clamp. -/
theorem test_witness_v2rOdd :
    fval 0xC0200000 = .finite (-5 / 2) ∧ fval 0x40200000 = .finite (5 / 2) ∧ fV2r 0xC0200000 .high = .ok (-4096) ∧
    fV2r 0x40200000 .high = .ok 4096 ∧ (-5 / 2 : ℚ) ≤ 5 / 2 ∧ (5 / 2 : ℚ) = -(-5 / 2) ∧
    (5 / 2 : ℚ) < (gainRange .high).ideal ∧ fval 0xC0A00000 = .finite (-5) ∧ fV2r 0xC0A00000 .high = .ok (-8192) := by
  decide +kernel

theorem test_witness_packBits :
    (packLane 0 0x3FFF).getLsbD 4 = true ∧ (packLane 0 0x3FFF).getLsbD 17 = true ∧
    (packLane 1 0x3FFF).getLsbD 2 = true ∧ (packLane 1 0x3FFF).getLsbD 15 = true := by decide

theorem test_witness_rawSample : fV2r 0xC0A00000 .high = .ok (-8192) ∧ fV2r 0x7F800000 .high = .ok 8191 := by
  decide +kernel

end Sys2Proof.Tests
end

section
/-! PROOFS. What a completed command makes of the block and what a step makes of the state, each said once: the case
lemmas from which the invariants and the "who writes what" statements follow. -/

namespace Sys2Proof.Machine

open Sys2Proof.Safety

/-! ### Completed commands -/

/-- The seven shapes of a completed command: what it is, and which update of the block it ends with. -/
inductive Completes (i : Instr) (b b' : Block) : Prop where
  | idle (hi : i = .nop) (h : b' = b)
  | result (v : Word) (hi : producesResult i = true) (h : b' = putResult v b)
  | gain (ch : BitVec 8) (gsel : GainSel) (c : Channel) (g : Gain) (hi : i = .setgain ch gsel)
      (hc : ch.toNat = c.val) (hg : namedGain gsel = .ok g) (h : b' = putGain c g b)
  | deposit (ch : BitVec 8) (gsel : GainSel) (c : Channel) (g : Gain) (hi : i = .setcal ch gsel)
      (hc : ch.toNat = c.val) (hg : namedGain gsel = .ok g) (h : b' = putCal (pairIndex c g) b.opa b.opb b)
  | clear (hi : i = .clrcal) (h : b' = clearCal b)
  | translate (ch : BitVec 8) (gsel : GainSel) (c : Channel) (m a : Int) (hi : i = .xlt ch gsel)
      (hc : ch.toNat = c.val) (hp : translatePair b (pairIndex c (gselResolve gsel c b)) = .ok (m, a))
      (h : b' = putCoef (pairIndex c (gselResolve gsel c b)) m a b)
  | translateAll (m a : Pair → Int) (hi : i = .xltall) (hp : ∀ k, translatePair b k = .ok (m k, a k))
      (h : b' = putCoef 3 (m 3) (a 3) (putCoef 2 (m 2) (a 2) (putCoef 1 (m 1) (a 1) (putCoef 0 (m 0) (a 0) b))))

/-- Everything a successful effect can do. -/
theorem effect_ok_cases {i : Instr} {b b' : Block} (h : effect i b = .ok b') : Completes i b b' := by
  cases i with
  | nop => cases h; exact .idle rfl rfl
  | cmult ch gsel => obtain ⟨c, -, n, -, rfl⟩ := effect_cmult_ok.1 h; exact .result _ rfl rfl
  | cadd ch gsel => obtain ⟨c, -, n, -, rfl⟩ := effect_cadd_ok.1 h; exact .result _ rfl rfl
  | v2r ch gsel => obtain ⟨c, -, n, -, rfl⟩ := effect_v2r_ok.1 h; exact .result _ rfl rfl
  | pack ch => obtain ⟨c, -, rfl⟩ := effect_pack_ok.1 h; exact .result _ rfl rfl
  | setgain ch gsel => obtain ⟨g, hg, c, hc, rfl⟩ := effect_setgain_ok.1 h; exact .gain ch gsel c g rfl hc hg rfl
  | setcal ch gsel => obtain ⟨g, hg, c, hc, rfl⟩ := effect_setcal_ok.1 h; exact .deposit ch gsel c g rfl hc hg rfl
  | clrcal => cases h; exact .clear rfl rfl
  | xlt ch gsel => obtain ⟨c, hc, m, a, hp, rfl⟩ := effect_xlt_ok.1 h; exact .translate ch gsel c m a rfl hc hp rfl
  | xltall =>
    obtain ⟨m0, a0, m1, a1, m2, a2, m3, a3, h0, h1, h2, h3, rfl⟩ := effect_xltall_ok.1 h
    refine .translateAll ![m0, m1, m2, m3] ![a0, a1, a2, a3] rfl (fun k => ?_) rfl
    match k with
    | 0 => exact h0
    | 1 => exact h1
    | 2 => exact h2
    | 3 => exact h3

/-- A completed command writes no gain mode but a SETGAIN's own (R131). -/
theorem gain_of_effect_ok {i : Instr} {b b' : Block} (he : effect i b = .ok b') (c : Channel) :
    b'.gain[c] = b.gain[c] ∨
      ∃ ch gsel, i = .setgain ch gsel ∧ ch.toNat = c.val ∧ namedGain gsel = .ok b'.gain[c] := by
  cases effect_ok_cases he with
  | gain ch gsel d g hi hc hg h =>
    rw [h, putGain_gain, get_set_channel]
    split
    · next e => subst e; exact .inr ⟨ch, gsel, hi, hc, hg⟩
    · exact .inl rfl
  | idle _ h | result _ _ h | deposit _ _ _ _ _ _ _ h | clear _ h | translate _ _ _ _ _ _ _ _ h
  | translateAll _ _ _ _ h => rw [h]; exact .inl rfl

/-- `RVALID` is set by the commands that produce a result and, with `RESULT`, kept by the others (R13). -/
theorem rvalid_of_effect_ok {i : Instr} {b b' : Block} (he : effect i b = .ok b') :
    (producesResult i = true → b'.rvalid = true) ∧
      (producesResult i = false → b'.rvalid = b.rvalid ∧ b'.result = b.result) := by
  cases effect_ok_cases he with
  | result v hi h => rw [h, hi]; simp
  | idle hi h | clear hi h | gain _ _ _ _ hi _ _ h | deposit _ _ _ _ hi _ _ h | translate _ _ _ _ _ hi _ _ h
  | translateAll _ _ hi _ h => rw [h, hi]; simp [producesResult]

/-! ### The elements of one pair -/

/-- The state elements of one (channel, gain) pair, side by side (R18 to R21). -/
structure PairRow where
  cg : Word
  ca : Word
  defined : Bool
  mult : Coef
  add : Coef
  valid : Bool

/-- The elements of pair `k`. -/
def Block.row (b : Block) (k : Pair) : PairRow where
  cg := b.calCg[k]
  ca := b.calCa[k]
  defined := b.caldef[k]
  mult := b.coefMult[k]
  add := b.coefAdd[k]
  valid := b.coefv[k]

@[simp] theorem row_cg (b : Block) (k : Pair) : (b.row k).cg = b.calCg[k] := rfl
@[simp] theorem row_ca (b : Block) (k : Pair) : (b.row k).ca = b.calCa[k] := rfl
@[simp] theorem row_defined (b : Block) (k : Pair) : (b.row k).defined = b.caldef[k] := rfl
@[simp] theorem row_mult (b : Block) (k : Pair) : (b.row k).mult = b.coefMult[k] := rfl
@[simp] theorem row_add (b : Block) (k : Pair) : (b.row k).add = b.coefAdd[k] := rfl
@[simp] theorem row_valid (b : Block) (k : Pair) : (b.row k).valid = b.coefv[k] := rfl

@[simp] theorem row_raise (e : ErrorKind) (b : Block) (k : Pair) : (raise e b).row k = b.row k := rfl
@[simp] theorem row_putResult (v : Word) (b : Block) (k : Pair) : (putResult v b).row k = b.row k := rfl
@[simp] theorem row_putGain (c : Channel) (g : Gain) (b : Block) (k : Pair) : (putGain c g b).row k = b.row k := rfl
@[simp] theorem row_writeReg (b : Block) (v : Word) (r : Reg) (k : Pair) : (writeReg b v r).row k = b.row k := by
  simp [Block.row]

/-- SETCAL's update deposits the operands in its own pair and leaves the other pairs alone (R101). -/
theorem row_putCal (j k : Pair) (cg ca : Word) (b : Block) : (putCal j cg ca b).row k =
    if k = j then { b.row k with cg := cg, ca := ca, defined := true, valid := false } else b.row k := by
  simp only [Block.row, putCal_calCg, putCal_calCa, putCal_caldef, putCal_coefMult, putCal_coefAdd, putCal_coefv,
    get_set_pair]
  split <;> rfl

/-- CLRCAL's update empties every pair's entry and keeps its coefficients (R102). -/
theorem row_clearCal (k : Pair) (b : Block) :
    (clearCal b).row k = { b.row k with cg := 0, ca := 0, defined := false, valid := false } := by
  simp only [Block.row, clearCal_calCg, clearCal_calCa, clearCal_caldef, clearCal_coefMult, clearCal_coefAdd,
    clearCal_coefv, get_words_zero, get_flags_empty]

/-- A translation's update writes the coefficients of its own pair and leaves the other pairs alone (R104). -/
theorem row_putCoef (j k : Pair) (m a : Int) (b : Block) : (putCoef j m a b).row k =
    if k = j then { b.row k with mult := coefField m, add := coefField a, valid := true } else b.row k := by
  simp only [Block.row, putCoef_calCg, putCoef_calCa, putCoef_caldef, putCoef_coefMult, putCoef_coefAdd, putCoef_coefv,
    get_set_pair]
  split <;> rfl

/-- The command translates pair `k`: XLTALL, or XLT of that pair. -/
def TranslatesPair (i : Instr) (b : Block) (k : Pair) : Prop :=
  i = .xltall ∨
    ∃ ch gsel, ∃ c : Channel, i = .xlt ch gsel ∧ ch.toNat = c.val ∧ pairIndex c (gselResolve gsel c b) = k

/-- The four things a completed command can make of the row of pair `k`. -/
inductive RowEffect (i : Instr) (b : Block) (k : Pair) (r : PairRow) : Prop where
  | kept (h : r = b.row k)
  | deposited (ch : BitVec 8) (gsel : GainSel) (c : Channel) (g : Gain) (hi : i = .setcal ch gsel)
      (hc : ch.toNat = c.val) (hg : namedGain gsel = .ok g) (hk : pairIndex c g = k)
      (h : r = { b.row k with cg := b.opa, ca := b.opb, defined := true, valid := false })
  | cleared (hi : i = .clrcal) (h : r = { b.row k with cg := 0, ca := 0, defined := false, valid := false })
  | translated (m a : Int) (hi : TranslatesPair i b k) (hp : translatePair b k = .ok (m, a))
      (h : r = { b.row k with mult := coefField m, add := coefField a, valid := true })

/-- Everything a completed command can do to the elements of a pair. -/
theorem row_of_effect_ok {i : Instr} {b b' : Block} (h : effect i b = .ok b') (k : Pair) :
    RowEffect i b k (b'.row k) := by
  cases effect_ok_cases h with
  | idle _ h | result _ _ h | gain _ _ _ _ _ _ _ h => subst h; exact .kept rfl
  | deposit ch gsel c g hi hc hg h =>
    subst h
    rw [row_putCal]
    split
    · next e => exact .deposited ch gsel c g hi hc hg e.symm rfl
    · exact .kept rfl
  | clear hi h => subst h; exact .cleared hi (row_clearCal k b)
  | translate ch gsel c m a hi hc hp h =>
    subst h
    rw [row_putCoef]
    split
    · next e => subst e; exact .translated m a (.inr ⟨ch, gsel, c, hi, hc, rfl⟩) hp rfl
    · exact .kept rfl
  | translateAll m a hi hp h =>
    subst h
    refine .translated (m k) (a k) (.inl hi) (hp k) ?_
    match k with
    | 0 | 1 | 2 | 3 => simp [row_putCoef]

/-! ### Steps -/

/-- What a step can make of the block, and of the reset input where the block is not reset: one case for each writer. -/
inductive StepChange (s t : State) : Prop where
  | kept (hb : t.block = s.block) (hr : t.resetLine = s.resetLine)
  | reset (hn : NextReset s) (hb : t.block = Block.reset)
  | stored (r : Reg) (v : Word) (rest : List HostEvent) (hp : s.pending = .write 32 (regOffset r) v :: rest)
      (hb : t.block = writeReg s.block v r) (hr : t.resetLine = false)
  | completed (i : Instr) (b : Block) (hn : NextCommand s i) (he : effect i s.block = .ok b)
      (hb : t.block = { b with lasterr := 0 }) (hr : t.resetLine = false)
  | raised (e : ErrorKind) (w : Word) (rest : List HostEvent) (hp : s.pending = cmdWrite w :: rest)
      (he : e ≠ .transferStartFailure ∧ e ≠ .deviceNotReady) (hb : t.block = raise e s.block)
      (hr : t.resetLine = false)

/-- Everything a step can do to the block. -/
theorem step_change {s t : State} (h : step s = .next t) : StepChange s t := by
  obtain ⟨-, rfl⟩ | ⟨e, rest, hp, hT⟩ := step_cases h
  · exact .kept rfl rfl
  cases hT with
  | refusedInReset | readData | readError | writeError => exact .kept rfl rfl
  | writeStore r v _ hr hcmd => exact .stored r v rest hp rfl hr
  | writeCommand w i _ hr hd =>
    obtain ⟨b, he, hb⟩ | ⟨err, he, hb⟩ := settle_cases s.block (effect i s.block)
    · exact .completed i b ⟨hr, w, rest, hp, hd⟩ he hb hr
    · exact .raised err w rest hp (effect_error_kind he) hb hr
  | writeIllegal w r _ hr hd => exact .raised .illegalCommand w rest hp (by decide) rfl hr
  | assertReset => exact .reset ⟨rest, .inl hp⟩ rfl
  | releaseReset =>
    unfold releaseReset
    split
    · exact .reset ⟨rest, .inr hp⟩ rfl
    · exact .kept rfl rfl

/-- A step keeps the row of a pair, resets it, or does to it what the next command does, which then completes. -/
theorem row_of_step {s t : State} (h : step s = .next t) (k : Pair) :
    t.block.row k = s.block.row k ∨ (NextReset s ∧ t.block.row k = Block.reset.row k) ∨
      ∃ i, NextCommand s i ∧ t.block.lasterr = 0 ∧ RowEffect i s.block k (t.block.row k) := by
  cases step_change h with
  | kept hb | stored _ _ _ _ hb | raised _ _ _ _ _ hb => rw [hb]; exact .inl (by simp)
  | reset hn hb => rw [hb]; exact .inr (.inl ⟨hn, rfl⟩)
  | completed i b hn he hb => rw [hb]; exact .inr (.inr ⟨i, hn, rfl, row_of_effect_ok he k⟩)

/-- The next command translates pair `k`, in the words of the statements. -/
theorem nextCommand_of_translatesPair {s : State} {i : Instr} {k : Pair} (hn : NextCommand s i)
    (hi : TranslatesPair i s.block k) :
    NextCommand s .xltall ∨ ∃ ch gsel, ∃ c : Channel, NextCommand s (.xlt ch gsel) ∧ ch.toNat = c.val ∧
      pairIndex c (gselResolve gsel c s.block) = k := by
  obtain rfl | ⟨ch, gsel, c, rfl, hc, hk⟩ := hi
  · exact .inl hn
  · exact .inr ⟨ch, gsel, c, hn, hc, hk⟩

/-- A step on a read of a register answers its read value and changes nothing else (R42). -/
theorem step_read (s : State) (r : Reg) (rest : List HostEvent) :
    step { s with resetLine := false, pending := .read 32 (regOffset r) :: rest } =
      .next { s with resetLine := false, pending := rest, response := some (.data (readReg s.block r)) } := by
  rw [step_event rfl]
  simp [takeEvent, hostRead, respond]

/-- A step on a write to a register other than `CMD` stores what `writeReg` says and is answered (R43). -/
theorem step_write (s : State) {r : Reg} (hr : r ≠ .cmd) (v : Word) (rest : List HostEvent) :
    step { s with resetLine := false, pending := .write 32 (regOffset r) v :: rest } =
      .next { block := writeReg s.block v r, resetLine := false, pending := rest, response := some .done } := by
  rw [step_event rfl]
  cases r with
  | cmd => exact absurd rfl hr
  | _ => simp [takeEvent, hostWrite, respond]

/-- A step on a write to `CMD` executes its word, with the access off the queue and answered (R12, R46). -/
theorem step_cmdWrite {s : State} {w : Word} {rest : List HostEvent} (hr : s.resetLine = false)
    (hp : s.pending = cmdWrite w :: rest) :
    step s = execWord w { s with pending := rest, response := some .done } := by
  rw [step_event hp]
  simp [cmdWrite, takeEvent, hr, hostWrite, respond]

end Sys2Proof.Machine
end

section
/-! PROOFS. The bits of the packed read views `STATUS`, `ERRFLAGS` and `GAIN`, and of the sticky flags after each
update (R15 to R17). -/

namespace Sys2Proof.Machine

open Sys2Proof.Safety

/-! ### Sticky flags -/

/-- A raise sets a flag and clears none (R146). -/
theorem getLsbD_setErrflag_of_set {f : BitVec 8} {n : Nat} (c : BitVec 4) (h : f.getLsbD n = true) :
    (setErrflag c f).getLsbD n = true := by
  simp [setErrflag, h]

/-- Write-1-to-clear clears the flags the word names (R15). -/
theorem getLsbD_clearErrflags (v : Word) (f : BitVec 8) (n : Fin 8) :
    (clearErrflags v f).getLsbD n.val = (f.getLsbD n.val && !v.getLsbD n.val) := by
  simp [clearErrflags, n.isLt]

/-- Only a write to `ERRFLAGS` itself stores into it. -/
theorem writeReg_errflags_of_ne (b : Block) (v : Word) {r : Reg} (hr : r ≠ .errflags) :
    (writeReg b v r).errflags = b.errflags := by
  cases r with
  | errflags => exact absurd rfl hr
  | _ => rfl

/-- A W1C keeps the hardwired bits 0. -/
theorem errflagsHardwired_clearErrflags (v : Word) {b : Block} (h : ErrflagsHardwired b) :
    ErrflagsHardwired { b with errflags := clearErrflags v b.errflags } := by
  obtain ⟨h0, h4, h5⟩ := h
  simp [ErrflagsHardwired, clearErrflags, h0, h4, h5]

/-- No error this block raises has a hardwired bit (R15, R141). -/
theorem errflagsHardwired_raise {e : ErrorKind} {b : Block} (he : e ≠ .transferStartFailure ∧ e ≠ .deviceNotReady)
    (h : ErrflagsHardwired b) : ErrflagsHardwired (raise e b) := by
  obtain ⟨h0, h4, h5⟩ := h
  cases e <;> simp_all [ErrflagsHardwired, setErrflag, errorCode]

/-- The implemented bits of `ERRFLAGS` (R15). -/
theorem getLsbD_errflagsMask :
    ∀ n : Fin 8, errflagsMask.getLsbD n.val = decide (n.val ∈ [1, 2, 3, 6, 7]) := by decide

/-- The bits of `ERRFLAGS` as they are read: the implemented ones (R15). -/
theorem getLsbD_errflagsView (b : Block) (n : Fin 8) : (errflagsView b).getLsbD n.val =
    (n.val ∈ [1, 2, 3, 6, 7] ∧ b.errflags.getLsbD n.val = true : Bool) := by
  rw [errflagsView, BitVec.getLsbD_and, getLsbD_errflagsMask, Bool.and_comm, Bool.decide_and, Bool.decide_eq_true]

/-- Where the hardwired bits are 0, `ERRFLAGS` reads as it is stored. -/
theorem errflagsView_of_hardwired {b : Block} (h : ErrflagsHardwired b) : errflagsView b = b.errflags := by
  obtain ⟨h0, h4, h5⟩ := h
  ext n hn
  have hmask := getLsbD_errflagsMask ⟨n, hn⟩
  rw [BitVec.getLsbD_eq_getElem hn] at hmask
  rw [errflagsView, BitVec.getElem_and, hmask]
  interval_cases n <;> simp_all

/-! ### Packed views -/

/-- Flag `k` of a packed row is its element. -/
theorem getLsbD_flags4 (v : Vector Bool 4) (k : Pair) : (flags4 v).getLsbD k.val = v[k] := by
  match k with
  | 0 | 1 | 2 | 3 => simp [flags4]

theorem extractLsb'_statusWord_lasterr (b : Block) : (statusWord b).extractLsb' 0 4 = b.lasterr := by
  ext n hn
  interval_cases n <;> simp [statusWord]

theorem getLsbD_statusWord_rvalid (b : Block) : (statusWord b).getLsbD 4 = b.rvalid := by
  simp [statusWord]

theorem getLsbD_statusWord_caldef (b : Block) (k : Pair) : (statusWord b).getLsbD (8 + k.val) = b.caldef[k] := by
  match k with
  | 0 | 1 | 2 | 3 => simp [statusWord, flags4]

theorem getLsbD_statusWord_coefv (b : Block) (k : Pair) : (statusWord b).getLsbD (12 + k.val) = b.coefv[k] := by
  match k with
  | 0 | 1 | 2 | 3 => simp [statusWord, flags4]

/-- Bits 7:5 of `STATUS` are 0. -/
theorem extractLsb'_statusWord_gap (b : Block) : (statusWord b).extractLsb' 5 3 = 0 := by
  ext n hn
  interval_cases n <;> simp [statusWord]

/-- Bits 31:16 of `STATUS` are 0. -/
theorem extractLsb'_statusWord_high (b : Block) : (statusWord b).extractLsb' 16 16 = 0 := by
  ext n hn
  have hl := BitVec.getLsbD_of_ge b.lasterr (16 + n) (by omega)
  have hd := BitVec.getLsbD_of_ge (flags4 b.caldef) (16 + n - 8) (by omega)
  have hv := BitVec.getLsbD_of_ge (flags4 b.coefv) (16 + n - 12) (by omega)
  have hr : 16 + n - 4 ≠ 0 := by omega
  simp [statusWord, hl, hd, hv, hr]

/-- A gain's bit is set exactly for HIGH (R17). -/
theorem gainBit_bit (g : Gain) : (gainBit g)[0] = (g == .high) := by
  cases g <;> rfl

/-- `GAIN` reads a channel's gain at the bit of its number. -/
theorem getLsbD_gainWord (b : Block) (c : Channel) : (gainWord b).getLsbD c.val = (b.gain[c] == .high) := by
  match c with
  | 0 | 1 => simp [gainWord, gainBit_bit]

/-- Bits 31:2 of `GAIN` are 0. -/
theorem extractLsb'_gainWord_high (b : Block) : (gainWord b).extractLsb' 2 30 = 0 := by
  ext n hn
  simp [gainWord, BitVec.getLsbD_of_ge (gainBit b.gain[0]) (2 + n) (by omega)]

end Sys2Proof.Machine
end

section
/-! PROOFS. The invariant (R26, R170): it holds at reset, and every step keeps it. -/

namespace Sys2Proof.Machine

open Sys2Proof.Safety

/-! ### The rows of the pairs: R26 (b) and (c) -/

/-- R26 (b), of a pair's row: marked translated, it is defined and holds what `F_mult` and `F_add` give for it. -/
def PairRow.InStep (k : Pair) (r : PairRow) : Prop :=
  r.valid = true →
    r.defined = true ∧ ∃ m a, fMult r.cg (pairGain k) = .ok m ∧ fAdd r.ca r.cg (pairGain k) = .ok a ∧
      r.mult = coefField m ∧ r.add = coefField a

/-- R26 (c), of a pair's row: its coefficients are 0 or a translation's. -/
def PairRow.FromTranslation (k : Pair) (r : PairRow) : Prop :=
  (r.mult = 0 ∨ ∃ cgb m, fMult cgb (pairGain k) = .ok m ∧ r.mult = coefField m) ∧
    (r.add = 0 ∨ ∃ cab cgb a, fAdd cab cgb (pairGain k) = .ok a ∧ r.add = coefField a)

theorem inStep_row {b : Block} {k : Pair} : (b.row k).InStep k ↔ InStep b k := Iff.rfl

theorem fromTranslation_row {b : Block} {k : Pair} : (b.row k).FromTranslation k ↔ CoefFromTranslation b k := Iff.rfl

/-- After reset no pair is marked translated and every coefficient is 0. -/
theorem row_reset (k : Pair) : Block.reset.row k = ⟨0, 0, false, 0, 0, false⟩ := by
  match k with
  | 0 | 1 | 2 | 3 => rfl

theorem inStep_row_reset (k : Pair) : (Block.reset.row k).InStep k := by
  simp [row_reset, PairRow.InStep]

theorem fromTranslation_row_reset (k : Pair) : (Block.reset.row k).FromTranslation k := by
  simp [row_reset, PairRow.FromTranslation]

/-- A completed command keeps a pair in step: it drops the mark with the record, or writes both coefficients from it. -/
theorem RowEffect.inStep {i : Instr} {b : Block} {k : Pair} {r : PairRow} (he : RowEffect i b k r)
    (hb : (b.row k).InStep k) : r.InStep k := by
  cases he with
  | kept h => rwa [h]
  | deposited _ _ _ _ _ _ _ _ h | cleared _ h => simp [h, PairRow.InStep]
  | translated m a _ hp h =>
    obtain ⟨hd, hm, ha⟩ := translatePair_eq_ok.1 hp
    rw [h]
    exact fun _ => ⟨hd, m, a, hm, ha, rfl, rfl⟩

/-- A completed command writes no coefficient but a translation's. -/
theorem RowEffect.fromTranslation {i : Instr} {b : Block} {k : Pair} {r : PairRow} (he : RowEffect i b k r)
    (hb : (b.row k).FromTranslation k) : r.FromTranslation k := by
  cases he with
  | kept h | deposited _ _ _ _ _ _ _ _ h | cleared _ h => rw [h]; exact hb
  | translated m a _ hp h =>
    obtain ⟨-, hm, ha⟩ := translatePair_eq_ok.1 hp
    rw [h]
    exact ⟨.inr ⟨_, m, hm, rfl⟩, .inr ⟨_, _, a, ha, rfl⟩⟩

/-! ### The block and the machine -/

theorem blockInv_reset : BlockInv Block.reset where
  inStep k := inStep_row.1 (inStep_row_reset k)
  fromTranslation k := fromTranslation_row.1 (fromTranslation_row_reset k)
  errflags := ⟨rfl, rfl, rfl⟩
  lasterr := by simp [LasterrLegal, Block.reset]

/-- A write to a register stores neither into the pairs nor into `LASTERR`, and a W1C sets no flag. -/
theorem blockInv_writeReg {b : Block} (h : BlockInv b) (v : Word) (r : Reg) : BlockInv (writeReg b v r) where
  inStep k := by rw [← inStep_row, row_writeReg]; exact h.inStep k
  fromTranslation k := by rw [← fromTranslation_row, row_writeReg]; exact h.fromTranslation k
  errflags := by
    by_cases hr : r = .errflags
    · subst hr; exact errflagsHardwired_clearErrflags v h.errflags
    · rw [ErrflagsHardwired, writeReg_errflags_of_ne b v hr]; exact h.errflags
  lasterr := by rw [LasterrLegal, writeReg_lasterr]; exact h.lasterr

/-- A completed command keeps the invariant of the block. -/
theorem blockInv_complete {i : Instr} {b b' : Block} (h : BlockInv b) (he : effect i b = .ok b') :
    BlockInv { b' with lasterr := 0 } where
  inStep k := inStep_row.1 ((row_of_effect_ok he k).inStep (h.inStep k))
  fromTranslation k := fromTranslation_row.1 ((row_of_effect_ok he k).fromTranslation (h.fromTranslation k))
  errflags := by
    obtain ⟨-, -, hf⟩ := effect_ok_frame he
    rw [ErrflagsHardwired, hf]
    exact h.errflags
  lasterr := by simp [LasterrLegal]

/-- An error this block raises keeps the invariant of the block. -/
theorem blockInv_raise {e : ErrorKind} {b : Block} (h : BlockInv b)
    (he : e ≠ .transferStartFailure ∧ e ≠ .deviceNotReady) : BlockInv (raise e b) where
  inStep := h.inStep
  fromTranslation := h.fromTranslation
  errflags := errflagsHardwired_raise he h.errflags
  lasterr := by cases e <;> simp_all [LasterrLegal, errorCode]

/-- Every step keeps the invariant of the block. -/
theorem blockInv_step {s t : State} (hs : BlockInv s.block) (h : step s = .next t) : BlockInv t.block := by
  cases step_change h with
  | kept hb _ => rw [hb]; exact hs
  | reset _ hb => rw [hb]; exact blockInv_reset
  | stored r v _ _ hb _ => rw [hb]; exact blockInv_writeReg hs v r
  | completed _ _ _ he hb _ => rw [hb]; exact blockInv_complete hs he
  | raised _ _ _ _ he hb _ => rw [hb]; exact blockInv_raise hs he

/-- While the reset input is asserted, every step leaves the block at its reset values (R170). -/
theorem held_step {s t : State} (hs : s.resetLine = true → s.block = Block.reset) (h : step s = .next t)
    (ht : t.resetLine = true) : t.block = Block.reset := by
  cases step_change h with
  | kept hb hr => rw [hb]; exact hs (hr ▸ ht)
  | reset _ hb => exact hb
  | stored _ _ _ _ _ hr | completed _ _ _ _ _ hr | raised _ _ _ _ _ _ hr => simp [hr] at ht

/-- Settles O9: R26 (b) and (c) by the row of each pair, the rest by what each writer of the block keeps. -/
theorem stepKeepsInvariant : Obligations.StepKeepsInvariant :=
  fun _ _ hs h => ⟨blockInv_step hs.block h, held_step hs.held h⟩

/-- Settles O8. -/
theorem resetSatisfiesInvariant : Obligations.ResetSatisfiesInvariant :=
  ⟨blockInv_reset, fun h => by simp [State.reset] at h⟩

/-- Settles O7. -/
theorem resetValues : Obligations.ResetValues := by
  refine ⟨rfl, rfl, rfl, rfl, rfl, rfl, fun c => ?_, fun k => ?_, by decide⟩
  · match c with
    | 0 | 1 => rfl
  · match k with
    | 0 | 1 | 2 | 3 => exact ⟨rfl, rfl, rfl, rfl, rfl, rfl⟩

end Sys2Proof.Machine
end

section
/-! PROOFS. Which accesses read and change what: the read views, the results and flags, and who writes each element
(R11 to R21). -/

namespace Sys2Proof.Machine

open Sys2Proof.Safety

/-! ### Accesses -/

/-- Settles O5: the port hands the word of a `CMD` write to the decoder. -/
theorem stepRunsTheDecodedCommand : Obligations.StepRunsTheDecodedCommand := by
  intro s w i rest hr hp hd
  rw [step_cmdWrite hr hp, execWord, hd]

/-- Settles O12, by the bits of the status word. -/
theorem statusReadsItsFields : Obligations.StatusReadsItsFields := by
  intro s rest
  have hro : Reg.status ≠ .cmd := by decide
  refine ⟨⟨statusWord s.block, step_read s .status rest, ?_⟩, fun d => step_write s hro d rest,
    step_read State.reset .status rest⟩
  exact ⟨extractLsb'_statusWord_lasterr _, getLsbD_statusWord_rvalid _, extractLsb'_statusWord_gap _,
    fun k => ⟨getLsbD_statusWord_caldef _ k, getLsbD_statusWord_coefv _ k⟩, extractLsb'_statusWord_high _⟩

/-- Settles O13, by the bits of the two views. -/
theorem errflagsAndGainRead : Obligations.ErrflagsAndGainRead := by
  intro s rest
  refine ⟨_, _, step_read s .errflags rest, step_read s .gain rest, fun n => ?_, ?_, fun hs => ?_,
    getLsbD_gainWord s.block 0, getLsbD_gainWord s.block 1, extractLsb'_gainWord_high s.block⟩
  · have hn : n.val < 32 := by omega
    rw [← getLsbD_errflagsView]
    simp [readReg, hn]
  · ext n hn
    simp [readReg]
  · rw [readReg, errflagsView_of_hardwired hs.block.errflags]
    exact BitVec.eq_of_toNat_eq (by simp)

/-! ### Results and flags -/

/-- Settles O21: a completed command by its effect, an error by the raise, a step by its writers. -/
theorem rvalidFollowsResultCommands : Obligations.RvalidFollowsResultCommands := by
  refine ⟨fun i s t h => ?_, fun s t h hreset hcmd => ?_⟩
  · obtain rfl := exec_next_iff.1 h
    obtain ⟨b, he, hb⟩ | ⟨e, he, hb⟩ := settle_cases s.block (effect i s.block)
    · obtain ⟨hset, hkeep⟩ := rvalid_of_effect_ok he
      simp only [hb]
      exact ⟨fun h => absurd rfl h, fun _ => hset, fun _ => hkeep⟩
    · simp only [hb]
      exact ⟨fun _ => ⟨rfl, rfl⟩, fun h => absurd h (errorCode_ne_zero e), fun h => absurd h (errorCode_ne_zero e)⟩
  · cases step_change h with
    | kept hb _ => simp [hb]
    | reset hn _ => exact absurd hn hreset
    | stored r v _ _ hb _ => simp [hb]
    | completed i b hn _ _ _ =>
      obtain ⟨-, w, rest, hp, -⟩ := hn
      exact absurd hp (hcmd w rest)
    | raised e w rest hp _ _ _ => exact absurd hp (hcmd w rest)

/-- Settles O22: of the writers of `ERRFLAGS`, a raise only sets flags and a W1C clears only those its word names. -/
theorem errorFlagsAreSticky : Obligations.ErrorFlagsAreSticky := by
  intro s t n h hreset hn
  cases step_change h with
  | kept hb _ => left; rw [hb]; exact hn
  | reset hr _ => exact absurd hr hreset
  | completed i b _ he hb _ =>
    obtain ⟨-, -, hf⟩ := effect_ok_frame he
    left; rw [hb, hf]; exact hn
  | raised e w rest _ _ hb _ => left; rw [hb]; exact getLsbD_setErrflag_of_set _ hn
  | stored r v rest hp hb _ =>
    by_cases hr : r = .errflags
    · subst hr
      cases hv : v.getLsbD n.val
      · left; rw [hb, writeReg_errflags_self, getLsbD_clearErrflags, hn, hv]; rfl
      · exact .inr ⟨v, rest, hp, hv⟩
    · left; rw [hb, writeReg_errflags_of_ne _ _ hr]; exact hn

/-! ### Who writes what -/

/-- Settles O24: neither end of a command writes an operand, and `exec` answers a state that differs in the block only. -/
theorem commandsLeaveOperandsAlone : Obligations.CommandsLeaveOperandsAlone := by
  intro i s t h
  obtain rfl := exec_next_iff.1 h
  obtain ⟨b, he, hb⟩ | ⟨e, -, hb⟩ := settle_cases s.block (effect i s.block)
  · obtain ⟨ha, hb', -⟩ := effect_ok_frame he
    simp [hb, ha, hb']
  · simp [hb]

/-- Settles O25: of the writers of the block, a completed SETGAIN alone writes a gain mode. -/
theorem gainChangesOnlyBySetgain : Obligations.GainChangesOnlyBySetgain := by
  intro s t c h hne
  cases step_change h with
  | kept hb _ | stored _ _ _ _ hb _ | raised _ _ _ _ _ hb _ => simp [hb] at hne
  | reset hn _ => exact .inl hn
  | completed i b hn he hb _ =>
    rw [hb] at hne ⊢
    obtain hkeep | ⟨ch, gsel, rfl, hc, hg⟩ := gain_of_effect_ok he c
    · exact absurd hkeep hne
    · exact .inr ⟨ch, gsel, hn, hc, hg⟩

/-- Settles O26, by what a step does to the row of the pair. -/
theorem recordChangesOnlyBySetcalAndClrcal : Obligations.RecordChangesOnlyBySetcalAndClrcal := by
  intro s t k h hne
  simp only [← row_cg, ← row_ca, ← row_defined] at hne ⊢
  obtain hk | ⟨hn, -⟩ | ⟨i, hn, -, he⟩ := row_of_step h k
  · simp [hk] at hne
  · exact .inl hn
  · cases he with
    | kept hr | translated _ _ _ _ hr => simp [hr] at hne
    | cleared hi hr => subst hi; exact .inr (.inl hn)
    | deposited ch gsel c g hi hc hg hk hr =>
      subst hi
      exact .inr (.inr ⟨ch, gsel, g, c, hn, hc, hg, hk, by rw [hr], by rw [hr], by rw [hr]⟩)

/-- Settles O27, by what a step does to the row of the pair. -/
theorem coefficientsChangeOnlyByTranslation : Obligations.CoefficientsChangeOnlyByTranslation := by
  intro s t k h hne
  simp only [← row_mult, ← row_add] at hne ⊢
  obtain hk | ⟨hn, -⟩ | ⟨i, hn, hl, he⟩ := row_of_step h k
  · simp [hk] at hne
  · exact .inl hn
  · cases he with
    | kept hr | cleared _ hr | deposited _ _ _ _ _ _ _ _ hr => simp [hr] at hne
    | translated m a hi hp hr =>
      obtain ⟨-, hm, ha⟩ := translatePair_eq_ok.1 hp
      exact .inr ⟨nextCommand_of_translatesPair hn hi, hl, m, a, hm, ha, by rw [hr], by rw [hr]⟩

/-- Settles O28, by what a step does to the row of the pair; a reset never sets `COEFV`. -/
theorem coefvFollowsTheRecord : Obligations.CoefvFollowsTheRecord := by
  intro s t k h
  simp only [← row_valid]
  obtain hk | ⟨hn, hk⟩ | ⟨i, hn, hl, he⟩ := row_of_step h k
  · simp +contextual [hk]
  · exact ⟨fun _ hv => by simp [hk, row_reset] at hv, fun _ _ => .inl hn⟩
  · cases he with
    | kept hr => simp +contextual [hr]
    | translated m a hi _ hr =>
      exact ⟨fun _ _ => ⟨hl, nextCommand_of_translatesPair hn hi⟩, fun _ hv => by simp [hr] at hv⟩
    | cleared hi hr =>
      subst hi
      exact ⟨fun _ hv => by simp [hr] at hv, fun _ _ => .inr (.inl hn)⟩
    | deposited ch gsel c g hi hc hg hk hr =>
      subst hi
      exact ⟨fun _ hv => by simp [hr] at hv, fun _ _ => .inr (.inr ⟨ch, gsel, g, c, hn, hc, hg, hk⟩)⟩

end Sys2Proof.Machine
end

section
/-! PROOFS. How the port takes an event: which accesses it refuses, what a read answers, and that the queue behind the
event plays no part (R41 to R47). -/

namespace Sys2Proof.Machine

open Sys2Proof.Safety

/-! ### Mapped and reserved offsets -/

/-- The reserved offsets, over the 128 offsets of the window (R41). -/
theorem regAt_eq_none_all : ∀ n : Fin 128,
    regAt (BitVec.ofFin n) = none ↔ n.val % 4 ≠ 0 ∨ n.val = 0x1C ∨ 0x60 ≤ n.val := by decide

/-- An access reaches no register exactly if it is malformed (R44). -/
theorem accessReg_eq_none {w : Nat} {off : BitVec 7} : accessReg w off = none ↔ MalformedAccess w off := by
  have hoff := regAt_eq_none_all off.toFin
  by_cases hw : w = 32
  · simpa [accessReg, MalformedAccess, hw] using hoff
  · simp [accessReg, MalformedAccess, hw]

/-- The registers a write to which has an effect (R43). -/
def Reg.writable : Reg → Bool
  | .cmd | .errflags | .opa | .opb => true
  | .status | .result | .gain | .calCg _ | .calCa _ | .coefMult _ | .coefAdd _ => false

/-- A read-only register ignores a write (R43). -/
theorem writeReg_of_readOnly (b : Block) (v : Word) {r : Reg} (hr : r.writable = false) : writeReg b v r = b := by
  cases r with
  | cmd | errflags | opa | opb => cases hr
  | _ => rfl

/-- The writable registers are those at 0x00, 0x08, 0x0C and 0x10 (R41). -/
theorem writable_regOffset {r : Reg} (hr : r.writable = true) : (regOffset r).toNat ∈ [0x00, 0x08, 0x0C, 0x10] := by
  cases r with
  | cmd | errflags | opa | opb => decide
  | _ => cases hr

/-- At a mapped offset other than the four of the writable registers stands a read-only register. -/
theorem exists_readOnly_regOffset {off : BitVec 7} (hoff : ¬ MalformedAccess 32 off)
    (hn : off.toNat ∉ [0x00, 0x08, 0x0C, 0x10]) : ∃ r : Reg, r.writable = false ∧ regOffset r = off := by
  obtain ⟨r, hr⟩ := Option.ne_none_iff_exists'.1 (mt accessReg_eq_none.1 hoff)
  obtain ⟨-, rfl⟩ := accessReg_eq_some.1 hr
  exact ⟨r, Bool.eq_false_iff.2 (mt writable_regOffset hn), rfl⟩

/-! ### One event -/

/-- `Took` says all of what an event does: the converse of `takeEvent_took`. -/
theorem Took.takeEvent_eq {e : HostEvent} {s t : State} (h : Took e s t) : takeEvent e s = .next t := by
  cases h with
  | refusedInReset _ _ he h =>
    obtain ⟨ha, hr⟩ := he
    cases e with
    | read | write => simp [takeEvent, h]
    | assertReset => exact absurd rfl ha
    | releaseReset => exact absurd rfl hr
  | readData r _ h => simp [takeEvent, hostRead, h]
  | readError _ _ _ h hr => simp [takeEvent, hostRead, h, hr]
  | writeStore r v _ h hr =>
    cases r with
    | cmd => exact absurd rfl hr
    | _ => simp [takeEvent, hostWrite, h]
  | writeCommand w i _ h hd => simp [takeEvent, cmdWrite, hostWrite, h, execWord_eq, hd, respond]
  | writeIllegal w r _ h hd => simp [takeEvent, cmdWrite, hostWrite, h, execWord_eq, hd, respond]
  | writeError _ _ _ _ h hr => simp [takeEvent, hostWrite, h, hr]
  | assertReset | releaseReset => rfl

/-- A release edge leaves the queue as it is, whatever stands in it. -/
theorem releaseReset_requeue (s : State) (q : List HostEvent) :
    releaseReset { s with pending := q } = { releaseReset s with pending := q } := by
  cases h : s.resetLine <;> simp [releaseReset, h]

/-- The same event does the same in front of any other queue, which it leaves as it is (R46). -/
theorem Took.requeue {e : HostEvent} {s t : State} (h : Took e s t) (q : List HostEvent) :
    Took e { s with pending := q } { t with pending := q } := by
  cases h with
  | refusedInReset _ _ he h => exact .refusedInReset e _ he h
  | readData r _ h => exact .readData r { s with pending := q } h
  | readError w off _ h hr => exact .readError w off _ h hr
  | writeStore r v _ h hr => exact .writeStore r v { s with pending := q } h hr
  | writeCommand w i _ h hd => exact .writeCommand w i { s with pending := q } h hd
  | writeIllegal w r _ h hd => exact .writeIllegal w r { s with pending := q } h hd
  | writeError w off v _ h hr => exact .writeError w off v _ h hr
  | assertReset => exact .assertReset { s with pending := q }
  | releaseReset => rw [← releaseReset_requeue]; exact .releaseReset { s with pending := q }

/-- Taking an event leaves the queue behind it as it is. -/
theorem Took.pending_eq {e : HostEvent} {s t : State} (h : Took e s t) : t.pending = s.pending := by
  cases h with
  | releaseReset => unfold Machine.releaseReset; split <;> rfl
  | _ => rfl

/-- A step on an event, whatever is queued behind it (R46). -/
theorem step_requeue {s : State} {e : HostEvent} {rest : List HostEvent} (h : s.pending = e :: rest) :
    ∃ t, step s = .next t ∧ t.pending = rest ∧
      ∀ q, step { s with pending := e :: q } = .next { t with pending := q } := by
  obtain ⟨t, ht, hT⟩ := takeEvent_took e { s with pending := rest }
  refine ⟨t, by rw [step_event h, ht], hT.pending_eq, fun q => ?_⟩
  rw [step_event rfl]
  exact (hT.requeue q).takeEvent_eq

/-! ### Reads -/

/-- What the port answers to a read (R42, R44, R170). -/
def readResponse (width : Nat) (off : BitVec 7) (s : State) : Response :=
  if s.resetLine then .notAccepted
  else match accessReg width off with
    | some r => .data (readReg s.block r)
    | none => .accessError

/-- A read sets the port's answer and nothing else (R42). -/
theorem takeEvent_read (width : Nat) (off : BitVec 7) (s : State) :
    takeEvent (.read width off) s = .next (respond (readResponse width off s) s) := by
  cases h : s.resetLine
  · cases hr : accessReg width off <;> simp [takeEvent, hostRead, readResponse, h, hr]
  · simp [takeEvent, readResponse, h]

/-- A coefficient register reads its stored pattern as a number, with zeros above (R20). -/
theorem readReg_coefMult (b : Block) (k : Pair) : readReg b (.coefMult k) = BitVec.ofNat 32 b.coefMult[k].toNat :=
  (BitVec.ofNat_toNat 32 _).symm

theorem readReg_coefAdd (b : Block) (k : Pair) : readReg b (.coefAdd k) = BitVec.ofNat 32 b.coefAdd[k].toNat :=
  (BitVec.ofNat_toNat 32 _).symm

/-! ### Runs -/

/-- A run of one step more begins with that step. -/
theorem run_succ {s t : State} (k : Nat) (h : step s = .next t) :
    Host.Core.run core (k + 1) s = Host.Core.run core k t := by
  have hcore : core.step s = .next t := h
  simp only [Host.Core.run, hcore]

/-- A run that takes the events `xs` leaves those behind them in the queue, and does the same with any others in their
place (R46, R47). -/
theorem run_requeue {t : State} {xs ys : List HostEvent} (zs : List HostEvent) :
    ∀ {s : State}, s.pending = xs ++ ys → Host.Core.run core xs.length s = .next t →
      t.pending = ys ∧
        Host.Core.run core xs.length { s with pending := xs ++ zs } = .next { t with pending := zs } := by
  induction xs with
  | nil =>
    intro s hp h
    cases h
    exact ⟨hp, rfl⟩
  | cons x xs ih =>
    intro s hp h
    obtain ⟨u, hu, hup, hq⟩ := step_requeue (rest := xs ++ ys) hp
    rw [List.length_cons, run_succ _ hu] at h
    rw [List.length_cons, List.cons_append, run_succ _ (hq (xs ++ zs))]
    exact ih hup h

end Sys2Proof.Machine
end

section
/-! PROOFS. The register window (R40 to R47): what reads answer, what writes do, and the accesses that are refused. -/

namespace Sys2Proof.Machine

open Sys2Proof.Safety

/-- Settles O15: a write reaches the register of its offset, and at all other mapped offsets stand read-only ones. -/
theorem hostWriteEffects : Obligations.HostWriteEffects := by
  intro s v rest
  refine ⟨step_cmdWrite rfl rfl, step_write s (r := .errflags) (by decide) v rest,
    step_write s (r := .opa) (by decide) v rest, step_write s (r := .opb) (by decide) v rest, fun off hoff => ?_⟩
  have hnum : off.toNat = 0x04 ∨ off.toNat = 0x14 ∨ off.toNat = 0x18 ∨
      (off.toNat % 4 = 0 ∧ 0x20 ≤ off.toNat ∧ off.toNat ≤ 0x5C) := by
    simpa [← BitVec.toNat_inj] using hoff
  obtain ⟨r, hr, rfl⟩ := exists_readOnly_regOffset (off := off)
    (by unfold MalformedAccess; omega) (by simp; omega)
  have hcmd : r ≠ .cmd := by rintro rfl; cases hr
  have hwrite := step_write s hcmd v rest
  rwa [writeReg_of_readOnly _ _ hr] at hwrite

/-- Settles O16: a malformed access is one that reaches no register, and of the ways an event is taken only that one
answers an access error. -/
theorem malformedAccessesAreRefused : Obligations.MalformedAccessesAreRefused := by
  intro s width off v e rest he hreset hp
  rw [step_event hp]
  refine ⟨fun hbad => ?_, fun hgood => ?_⟩
  · have hnone := accessReg_eq_none.2 hbad
    obtain rfl | rfl := he
    · exact (Took.readError width off { s with pending := rest } hreset hnone).takeEvent_eq
    · exact (Took.writeError width off v { s with pending := rest } hreset hnone).takeEvent_eq
  · obtain ⟨t, ht, hT⟩ := takeEvent_took e { s with pending := rest }
    refine ⟨t, ht, hT.pending_eq, ?_⟩
    have hsome : accessReg width off ≠ none := mt accessReg_eq_none.1 hgood
    cases hT with
    | refusedInReset _ _ _ h => simp [hreset] at h
    | readError _ _ _ _ hnone | writeError _ _ _ _ _ hnone =>
      obtain he | he := he <;> cases he
      exact absurd hnone hsome
    | assertReset | releaseReset => simp at he
    | readData | writeStore | writeCommand | writeIllegal => simp [hreset, respond, AccessAccepted]

/-- Settles O17: a step does the same whatever is queued behind its event, and so does a run. -/
theorem laterAccessesDoNotAffectEarlierOnes : Obligations.LaterAccessesDoNotAffectEarlierOnes :=
  fun s _ xs ys zs h => run_requeue (s := { s with pending := xs ++ ys }) zs rfl h

/-- Settles O11: each offset is that of its register, whose read value the port answers. -/
theorem hostReadOfDataRegisters : Obligations.HostReadOfDataRegisters := by
  intro s rest
  refine ⟨step_read s .cmd rest, step_read s .opa rest, step_read s .opb rest, step_read s .result rest,
    fun k => ?_⟩
  have hmult := step_read s (.coefMult k) rest
  have hadd := step_read s (.coefAdd k) rest
  rw [readReg_coefMult] at hmult
  rw [readReg_coefAdd] at hadd
  exact ⟨step_read s (.calCg k) rest, step_read s (.calCa k) rest, hmult, hadd⟩

/-- Settles O14: the answer to a read depends on the block and the reset input only, and a read changes neither. -/
theorem readsHaveNoSideEffect : Obligations.ReadsHaveNoSideEffect := by
  intro s width off rest hp
  refine ⟨respond (readResponse width off s) { s with pending := rest }, ?_, rfl, ?_⟩
  · rw [step_event hp, takeEvent_read]; rfl
  · rintro rest' rfl
    rw [step_event rfl, takeEvent_read]; rfl

end Sys2Proof.Machine
end

section
/-! PROOFS. Command words (R60 to R64): the fields of a word as numbers, when each format accepts a word, and that the
decoder and the encoder are inverse to each other. -/

namespace Sys2Proof

open Sys2Proof.Safety

/-! ### The fields of a word as numbers (R60) -/

theorem toNat_opField (w : Word) : (opField w).toNat = w.toNat % 256 := by
  simp [opField]

theorem toNat_chField (w : Word) : (chField w).toNat = w.toNat / 256 % 256 := by
  simp [chField, Nat.shiftRight_eq_div_pow]

theorem toNat_gselField (w : Word) : (gselField w).toNat = w.toNat / 65536 % 4 := by
  simp [gselField, Nat.shiftRight_eq_div_pow]

/-- The bits of a word from bit `k` up are zero exactly if the word is a number below `2 ^ k`. -/
theorem extractLsb'_high_eq_zero {w : Word} {k n : Nat} (hk : k + n = 32) :
    w.extractLsb' k n = 0 ↔ w.toNat / 2 ^ k = 0 := by
  have hlt : w.toNat / 2 ^ k < 2 ^ n := by
    rw [Nat.div_lt_iff_lt_mul (by positivity), ← pow_add, add_comm n, hk]
    exact w.isLt
  rw [← BitVec.toNat_inj, BitVec.extractLsb'_toNat, Nat.shiftRight_eq_div_pow, Nat.mod_eq_of_lt hlt]
  rfl

/-! ### The words of the three formats (R60) -/

theorem toNat_wordN (op : BitVec 8) : (wordN op).toNat = op.toNat := by
  simp [wordN]; omega

/-- A field put above a word that ends below it is added to it. -/
theorem toNat_or_shiftLeft {n k : Nat} {w : Word} {f : BitVec n} (hn : n + k ≤ 32) (hw : w.toNat < 2 ^ k) :
    (w ||| (f.zeroExtend 32 <<< k)).toNat = w.toNat + 2 ^ k * f.toNat := by
  have hf : f.toNat * 2 ^ k < 2 ^ 32 :=
    calc f.toNat * 2 ^ k < 2 ^ n * 2 ^ k := Nat.mul_lt_mul_of_pos_right f.isLt (by positivity)
      _ = 2 ^ (n + k) := (pow_add 2 n k).symm
      _ ≤ 2 ^ 32 := Nat.pow_le_pow_right (by decide) hn
  have hf' : f.toNat < 2 ^ 32 := lt_of_le_of_lt (Nat.le_mul_of_pos_right _ (by positivity)) hf
  rw [BitVec.toNat_or, BitVec.toNat_shiftLeft, BitVec.zeroExtend_eq_setWidth, BitVec.toNat_setWidth,
    Nat.mod_eq_of_lt hf', Nat.shiftLeft_eq, Nat.mod_eq_of_lt hf, ← Nat.shiftLeft_eq, Nat.or_comm,
    ← Nat.shiftLeft_add_eq_or_of_lt hw, Nat.shiftLeft_eq, Nat.add_comm, Nat.mul_comm]

theorem toNat_wordC (op ch : BitVec 8) : (wordC op ch).toNat = op.toNat + 2 ^ 8 * ch.toNat := by
  have hop : (wordN op).toNat < 2 ^ 8 := by rw [toNat_wordN]; exact op.isLt
  rw [← toNat_wordN op]
  exact toNat_or_shiftLeft (by decide) hop

theorem toNat_wordG (op ch : BitVec 8) (g : GainSel) :
    (wordG op ch g).toNat = op.toNat + 2 ^ 8 * ch.toNat + 2 ^ 16 * (gselCode g).toNat := by
  have hop : (wordC op ch).toNat < 2 ^ 16 := by rw [toNat_wordC]; omega
  rw [← toNat_wordC op ch]
  exact toNat_or_shiftLeft (by decide) hop

/-- A word is the format N word of its opcode exactly if the rest of it is zero. -/
theorem wordN_eq_iff {op : BitVec 8} {w : Word} : wordN op = w ↔ opField w = op ∧ w.toNat / 2 ^ 8 = 0 := by
  simp only [← BitVec.toNat_inj, toNat_wordN, toNat_opField]
  omega

/-- A word is a format C word of its fields exactly if the rest of it is zero. -/
theorem wordC_eq_iff {op ch : BitVec 8} {w : Word} :
    wordC op ch = w ↔ opField w = op ∧ w.toNat / 2 ^ 16 = 0 ∧ chField w = ch := by
  simp only [← BitVec.toNat_inj, toNat_wordC, toNat_opField, toNat_chField]
  omega

/-- A word is a format G word of its fields exactly if the rest of it is zero. -/
theorem wordG_eq_iff {op ch : BitVec 8} {g : GainSel} {w : Word} : wordG op ch g = w ↔
    opField w = op ∧ w.toNat / 2 ^ 18 = 0 ∧ gselField w = gselCode g ∧ chField w = ch := by
  simp only [← BitVec.toNat_inj, toNat_wordG, toNat_opField, toNat_gselField, toNat_chField]
  omega

/-! ### When a format accepts a word (R63 steps 2 and 3) -/

theorem gselOf_eq_ok {x : BitVec 2} {g : GainSel} : gselOf x = .ok g ↔ x = gselCode g := by
  revert x; cases g <;> decide

theorem formatN_eq_ok {w : Word} {i j : Instr} : formatN w i = .ok j ↔ w.toNat / 2 ^ 8 = 0 ∧ i = j := by
  rw [formatN, ← extractLsb'_high_eq_zero (n := 24) rfl]
  split <;> simp only [*, true_and, false_and, Except.ok.injEq, reduceCtorEq]

theorem formatC_eq_ok {w : Word} {f : BitVec 8 → Instr} {i : Instr} :
    formatC w f = .ok i ↔ w.toNat / 2 ^ 16 = 0 ∧ f (chField w) = i := by
  rw [formatC, ← extractLsb'_high_eq_zero (n := 16) rfl]
  split <;> simp only [*, true_and, false_and, Except.ok.injEq, reduceCtorEq]

theorem formatG_eq_ok {w : Word} {f : BitVec 8 → GainSel → Instr} {i : Instr} : formatG w f = .ok i ↔
    w.toNat / 2 ^ 18 = 0 ∧ ∃ g, gselField w = gselCode g ∧ f (chField w) g = i := by
  rw [formatG, ← extractLsb'_high_eq_zero (n := 14) rfl]
  simp only [← gselOf_eq_ok]
  split
  · cases gselOf (gselField w) <;> simp [*]
  · simp only [*, false_and, reduceCtorEq]

theorem formatGNamed_eq_ok {w : Word} {f : BitVec 8 → GainSel → Instr} {i : Instr} : formatGNamed w f = .ok i ↔
    w.toNat / 2 ^ 18 = 0 ∧ ∃ g, gselField w = gselCode g ∧ g ≠ .cur ∧ f (chField w) g = i := by
  have hcur : ∀ g, gselCode g = 2 ↔ g = .cur := by intro g; cases g <;> decide
  have hnamed : formatGNamed w f = .ok i ↔ formatG w f = .ok i ∧ gselField w ≠ 2 := by
    unfold formatGNamed
    cases formatG w f with
    | ok j => dsimp only; split <;> simp only [*, ne_eq, not_true, not_false_iff, and_true, and_false, reduceCtorEq]
    | error r => simp
  rw [hnamed, formatG_eq_ok]
  constructor
  · rintro ⟨⟨hz, g, hg, hi⟩, hne⟩
    exact ⟨hz, g, hg, mt (hcur g).2 (hg ▸ hne), hi⟩
  · rintro ⟨hz, g, hg, hne, hi⟩
    exact ⟨⟨hz, g, hg, hi⟩, hg ▸ mt (hcur g).1 hne⟩

/-! ### The decoder and the encoder -/

/-- The decoder reads a word as the command `i` exactly if the word is what the encoder writes for `i`. -/
theorem decode_eq_ok {w : Word} {i : Instr} : decode w = .ok i ↔ WellFormed i ∧ encode i = w := by
  constructor
  · intro h
    unfold decode at h
    split at h <;> rename_i hop
    case h_1 | h_8 | h_10 =>
      obtain ⟨hz, rfl⟩ := formatN_eq_ok.1 h
      exact ⟨rfl, wordN_eq_iff.2 ⟨BitVec.eq_of_toNat_eq hop, hz⟩⟩
    case h_5 =>
      obtain ⟨hz, rfl⟩ := formatC_eq_ok.1 h
      exact ⟨rfl, wordC_eq_iff.2 ⟨BitVec.eq_of_toNat_eq hop, hz, rfl⟩⟩
    case h_2 | h_3 | h_4 | h_9 =>
      obtain ⟨hz, g, hg, rfl⟩ := formatG_eq_ok.1 h
      exact ⟨rfl, wordG_eq_iff.2 ⟨BitVec.eq_of_toNat_eq hop, hz, hg, rfl⟩⟩
    case h_6 | h_7 =>
      obtain ⟨hz, g, hg, hne, rfl⟩ := formatGNamed_eq_ok.1 h
      exact ⟨bne_iff_ne.2 hne, wordG_eq_iff.2 ⟨BitVec.eq_of_toNat_eq hop, hz, hg, rfl⟩⟩
    case h_11 => cases h
  · rintro ⟨hwf, hw⟩
    unfold decode
    cases i with
    | nop | clrcal | xltall =>
      obtain ⟨hop, hz⟩ := wordN_eq_iff.1 hw
      rw [hop]
      exact formatN_eq_ok.2 ⟨hz, rfl⟩
    | pack ch =>
      obtain ⟨hop, hz, hch⟩ := wordC_eq_iff.1 hw
      rw [hop]
      exact formatC_eq_ok.2 ⟨hz, by rw [hch]⟩
    | cmult ch g | cadd ch g | v2r ch g | xlt ch g =>
      obtain ⟨hop, hz, hg, hch⟩ := wordG_eq_iff.1 hw
      rw [hop]
      exact formatG_eq_ok.2 ⟨hz, g, hg, by rw [hch]⟩
    | setgain ch g | setcal ch g =>
      obtain ⟨hop, hz, hg, hch⟩ := wordG_eq_iff.1 hw
      rw [hop]
      exact formatGNamed_eq_ok.2 ⟨hz, g, hg, bne_iff_ne.1 hwf, by rw [hch]⟩

/-! ### Illegal words (R64) -/

/-- The three gain selectors. -/
theorem exists_gainSel {p : GainSel → Prop} : (∃ g, p g) ↔ p .low ∨ p .high ∨ p .cur := by
  constructor
  · rintro ⟨g, h⟩
    cases g with
    | low => exact .inl h
    | high => exact .inr (.inl h)
    | cur => exact .inr (.inr h)
  · rintro (h | h | h) <;> exact ⟨_, h⟩

/-- A `GSEL` field names a selector unless it is 3. -/
theorem exists_gselCode {x : BitVec 2} : (∃ g, x = gselCode g) ↔ x.toNat ≠ 3 := by
  rw [exists_gainSel]
  revert x; decide

/-- A `GSEL` field names a gain if it is neither 3 nor CUR's 2. -/
theorem exists_gselCode_ne_cur {x : BitVec 2} : (∃ g, x = gselCode g ∧ g ≠ .cur) ↔ ¬ (x.toNat = 3 ∨ x.toNat = 2) := by
  rw [exists_gainSel]
  revert x; decide

/-- The decoder accepts exactly the words that R64's list leaves out. -/
theorem exists_decode_eq_ok {w : Word} : (∃ i, decode w = .ok i) ↔ ¬ IllegalWord w := by
  simp only [IllegalWord, ← toNat_opField]
  unfold decode
  split <;> rename_i hop
  case h_1 | h_8 | h_10 => simp [formatN_eq_ok, hop]
  case h_5 => simp [formatC_eq_ok, hop]
  case h_2 | h_3 | h_4 | h_9 => simp [formatG_eq_ok, exists_gselCode, toNat_gselField, hop]
  case h_6 | h_7 => simp [formatGNamed_eq_ok, exists_gselCode_ne_cur, toNat_gselField, hop, and_assoc]
  case h_11 =>
    have hbig : 9 < (opField w).toNat := by simp only [imp_false] at *; omega
    simp [hbig]

/-- The decoder refuses exactly the words of R64's list. -/
theorem exists_decode_eq_error {w : Word} : (∃ r, decode w = .error r) ↔ IllegalWord w := by
  rw [← not_iff_not, ← exists_decode_eq_ok]
  cases decode w <;> simp

end Sys2Proof
end

section
/-! PROOFS. The statements about command words: round trips, illegal words, and the words that command statements write
(R60 to R68). -/

namespace Sys2Proof.Machine

open Sys2Proof.Safety

/-- Settles O1, one direction of `decode_eq_ok`. -/
theorem decodeOfEncode : Obligations.DecodeOfEncode :=
  fun _ hwf => decode_eq_ok.2 ⟨hwf, rfl⟩

/-- Settles O2, the other direction of `decode_eq_ok`. -/
theorem encodeOfDecode : Obligations.EncodeOfDecode :=
  fun _ _ h => decode_eq_ok.1 h

/-- Settles O3: the decoder refuses R64's list, and a refused word raises `IllegalCommand`. -/
theorem illegalWordsRaiseIllegalCommand : Obligations.IllegalWordsRaiseIllegalCommand := by
  intro w
  refine ⟨exists_decode_eq_error, ?_, fun s rest hr hp hw => ?_⟩
  · have hzero : encode .nop = 0 := rfl
    have hwf : WellFormed .nop := rfl
    rw [decode_eq_ok, hzero, eq_comm]
    exact and_iff_right hwf
  · obtain ⟨r, hd⟩ := exists_decode_eq_error.2 hw
    rw [step_cmdWrite hr hp, execWord, hd, raise_illegalCommand]

/-- Settles O4, by running the decoder on each of the fourteen words. -/
theorem specWordsDecode : Obligations.SpecWordsDecode := by
  unfold Obligations.SpecWordsDecode
  decide

/-! ### Command statements (R68) -/

/-- The word of a statement with a legal `GSEL` is the format G word of its fields. -/
theorem stmtWord_eq_wordG (op ch : BitVec 8) (g : GainSel) :
    stmtWord (op.zeroExtend 32) ch (gselCode g) = wordG op ch g := rfl

/-- The word of a statement with `GSEL` 0 is also the format C word of its fields. -/
theorem stmtWord_eq_wordC (op ch : BitVec 8) : stmtWord (op.zeroExtend 32) ch 0 = wordC op ch := by
  simp [stmtWord, wordC]

/-- A gain name in a statement is the `GSEL` field of the selector that names the gain. -/
theorem stmtGain_of_namedGain {gsel : GainSel} {g : Gain} (h : namedGain gsel = .ok g) :
    stmtGain g = gselCode gsel := by
  revert h; cases gsel <;> cases g <;> decide

/-- Settles O6: a statement's word has the fields of its command's. -/
theorem statementsWriteTheirCommandWords : Obligations.StatementsWriteTheirCommandWords := by
  intro ch g gsel
  refine ⟨rfl, rfl, rfl, congrArg cmdWrite (stmtWord_eq_wordC 4 ch), congrArg cmdWrite (stmtWord_eq_wordG 1 ch gsel),
    congrArg cmdWrite (stmtWord_eq_wordG 2 ch gsel), congrArg cmdWrite (stmtWord_eq_wordG 3 ch gsel),
    congrArg cmdWrite (stmtWord_eq_wordG 8 ch gsel), fun hg => ?_⟩
  have hword := stmtGain_of_namedGain hg
  constructor
  · rw [stmtEvent, hword]; exact congrArg cmdWrite (stmtWord_eq_wordG 5 ch gsel)
  · rw [stmtEvent, hword]; exact congrArg cmdWrite (stmtWord_eq_wordG 6 ch gsel)

end Sys2Proof.Machine
end

section
/-! PROOFS. Gain selection (R65, R66): a command that names a gain depends on which gain it names, not on how. -/

namespace Sys2Proof.Machine

theorem gselResolve_of_namedGain {gsel : GainSel} {g : Gain} (h : namedGain gsel = .ok g) (c : Channel) (b : Block) :
    gselResolve gsel c b = g := by
  cases gsel with
  | low | high => cases h; rfl
  | cur => cases h

/-- LOW and HIGH name a gain. -/
theorem exists_namedGain {gsel : GainSel} (h : gsel ≠ .cur) : ∃ g, namedGain gsel = .ok g := by
  cases gsel with
  | low | high => exact ⟨_, rfl⟩
  | cur => exact absurd rfl h

/-- A CMULT, CADD or V2R takes nothing from its legal channel and its selector but the gain (R65, R66). -/
theorem exec_eq_of_gselResolve_eq {s : State} {ch ch' : BitVec 8} {gsel gsel' : GainSel} {c c' : Channel}
    (hc : ch.toNat = c.val) (hc' : ch'.toNat = c'.val)
    (hg : gselResolve gsel c s.block = gselResolve gsel' c' s.block) :
    exec (.cmult ch gsel) s = exec (.cmult ch' gsel') s ∧ exec (.cadd ch gsel) s = exec (.cadd ch' gsel') s ∧
      exec (.v2r ch gsel) s = exec (.v2r ch' gsel') s := by
  rw [← channelOf_eq_ok] at hc hc'
  simp [exec_eq, effect, cmultOp, caddOp, v2rOp, hc, hc', hg]

/-- An XLT takes nothing from its selector but the gain (R66). -/
theorem exec_xlt_eq_of_gselResolve_eq {s : State} {ch : BitVec 8} {gsel gsel' : GainSel} {c : Channel}
    (hc : ch.toNat = c.val) (hg : gselResolve gsel c s.block = gselResolve gsel' c s.block) :
    exec (.xlt ch gsel) s = exec (.xlt ch gsel') s := by
  rw [← channelOf_eq_ok] at hc
  simp [exec_eq, effect, xltOp, hc, hg]

/-- CUR in the four commands that admit it is the channel's gain named (R66). -/
theorem exec_cur_eq_named {s : State} {ch : BitVec 8} {c : Channel} {gsel : GainSel} (hc : ch.toNat = c.val)
    (hg : namedGain gsel = .ok s.block.gain[c]) :
    exec (.cmult ch .cur) s = exec (.cmult ch gsel) s ∧ exec (.cadd ch .cur) s = exec (.cadd ch gsel) s ∧
      exec (.v2r ch .cur) s = exec (.v2r ch gsel) s ∧ exec (.xlt ch .cur) s = exec (.xlt ch gsel) s := by
  have hsame : gselResolve .cur c s.block = gselResolve gsel c s.block := (gselResolve_of_namedGain hg c _).symm
  obtain ⟨hcmult, hcadd, hv2r⟩ := exec_eq_of_gselResolve_eq hc hc hsame
  exact ⟨hcmult, hcadd, hv2r, exec_xlt_eq_of_gselResolve_eq hc hsame⟩

/-- A SETGAIN of a legal channel that names a gain leaves the channel with that gain (R131). -/
theorem gain_of_exec_setgain {s t : State} {ch : BitVec 8} {c : Channel} {gsel : GainSel} {g : Gain}
    (hc : ch.toNat = c.val) (hg : namedGain gsel = .ok g) (h : exec (.setgain ch gsel) s = .next t) :
    t.block.gain[c] = g := by
  have he : effect (.setgain ch gsel) s.block = .ok (putGain c g s.block) :=
    effect_setgain_ok.2 ⟨g, hg, c, hc, rfl⟩
  rw [exec_next_iff.1 h, he, settle_ok, putGain_gain, get_set_channel, if_pos rfl]

/-- Settles O45: CUR reads the channel's gain, and LOW and HIGH name the same gain at every channel. -/
theorem curNamesTheChannelsGain : Obligations.CurNamesTheChannelsGain := by
  refine ⟨fun s ch c gsel hc hg => exec_cur_eq_named hc hg, fun s ch ch' gsel hne hlt hlt' => ?_⟩
  obtain ⟨g, hg⟩ := exists_namedGain hne
  refine exec_eq_of_gselResolve_eq (c := ⟨ch.toNat, hlt⟩) (c' := ⟨ch'.toNat, hlt'⟩) rfl rfl ?_
  rw [gselResolve_of_namedGain hg, gselResolve_of_namedGain hg]

/-- Settles O46: the channel's gain after SETGAIN is the gain named. -/
theorem gainChangeIsObservable : Obligations.GainChangeIsObservable := by
  intro s t ch c gsel hc hne h
  obtain ⟨g, hg⟩ := exists_namedGain hne
  exact exec_cur_eq_named hc (by rw [gain_of_exec_setgain hc hg h, hg])

end Sys2Proof.Machine
end

section
/-! PROOFS. The two roundings of ℚ (R82, R83): which floor or ceiling each of them is, and their statements. -/

namespace Sys2Proof.Machine

/-! ### Truncation (R83) -/

theorem trunc_of_nonneg {q : ℚ} (h : 0 ≤ q) : trunc q = ⌊q⌋ := if_pos h

theorem trunc_of_nonpos {q : ℚ} (h : q ≤ 0) : trunc q = ⌈q⌉ := by
  rcases h.eq_or_lt with rfl | hlt
  · rw [trunc_of_nonneg le_rfl, Int.floor_zero, Int.ceil_zero]
  · rw [trunc, if_neg hlt.not_ge, show (-q).floor = ⌊-q⌋ from rfl, Int.floor_neg, neg_neg]

theorem trunc_neg (q : ℚ) : trunc (-q) = -trunc q := by
  rcases le_total 0 q with h | h
  · rw [trunc_of_nonneg h, trunc_of_nonpos (neg_nonpos.2 h), Int.ceil_neg]
  · rw [trunc_of_nonpos h, trunc_of_nonneg (neg_nonneg.2 h), Int.floor_neg]

theorem trunc_mono {p q : ℚ} (h : p ≤ q) : trunc p ≤ trunc q := by
  rcases le_total 0 p with hp | hp
  · rw [trunc_of_nonneg hp, trunc_of_nonneg (hp.trans h)]
    exact Int.floor_mono h
  · rcases le_total 0 q with hq | hq
    · rw [trunc_of_nonpos hp, trunc_of_nonneg hq]
      exact (Int.ceil_nonpos.2 hp).trans (Int.floor_nonneg.2 hq)
    · rw [trunc_of_nonpos hp, trunc_of_nonpos hq]
      exact Int.ceil_mono h

/-- Truncation is the integer part toward zero of a number that is not negative. -/
theorem abs_trunc_of_nonneg {q : ℚ} (h : 0 ≤ q) : |(trunc q : ℚ)| ≤ |q| ∧ |q| < |(trunc q : ℚ)| + 1 := by
  have hfloor : (0 : ℚ) ≤ ⌊q⌋ := Int.cast_nonneg (Int.floor_nonneg.2 h)
  rw [trunc_of_nonneg h, abs_of_nonneg h, abs_of_nonneg hfloor]
  exact ⟨Int.floor_le q, Int.lt_floor_add_one q⟩

/-- Truncation is the integer part toward zero. -/
theorem abs_trunc (q : ℚ) : |(trunc q : ℚ)| ≤ |q| ∧ |q| < |(trunc q : ℚ)| + 1 := by
  rcases le_total 0 q with h | h
  · exact abs_trunc_of_nonneg h
  · simpa [trunc_neg] using abs_trunc_of_nonneg (neg_nonneg.2 h)

/-- Settles O52: the bound is `abs_trunc`, the examples are evaluated. -/
theorem truncTowardZero : Obligations.TruncTowardZero := by
  refine ⟨fun q => trunc_of_nonneg, fun q h => if_neg h.not_ge, by decide +kernel, by decide +kernel,
    by decide +kernel, abs_trunc⟩

/-! ### Rounding half away from zero (R82) -/

theorem rhaz_of_nonneg {q : ℚ} (h : 0 ≤ q) : rhaz q = ⌊q + 1 / 2⌋ := if_pos h

theorem rhaz_of_neg {q : ℚ} (h : q < 0) : rhaz q = -⌊-q + 1 / 2⌋ := if_neg h.not_ge

@[simp] theorem rhaz_zero : rhaz 0 = 0 := by decide +kernel

/-- Below zero `rhaz` is a ceiling, one below the ceiling of `q + 1/2`. -/
theorem rhaz_eq_ceil_sub_one {q : ℚ} (h : q < 0) : rhaz q = ⌈q + 1 / 2⌉ - 1 := by
  rw [rhaz_of_neg h, ← Int.ceil_neg, ← Int.ceil_sub_one]
  congr 1
  ring

theorem rhaz_neg (q : ℚ) : rhaz (-q) = -rhaz q := by
  rcases lt_trichotomy q 0 with h | rfl | h
  · rw [rhaz_of_neg h, rhaz_of_nonneg (neg_nonneg.2 h.le), neg_neg]
  · simp
  · rw [rhaz_of_nonneg h.le, rhaz_of_neg (neg_lt_zero.2 h), neg_neg]

/-- The integer form of `rhaz` for a numerator that is not negative. -/
theorem rhaz_div_of_nonneg {N D : Int} (hN : 0 ≤ N) (hD : 0 < D) :
    rhaz ((N : ℚ) / D) = (2 * N + D) / (2 * D) := by
  have hDq : (0 : ℚ) < D := Int.cast_pos.2 hD
  have hden : ((2 * D).toNat : Int) = 2 * D := Int.toNat_of_nonneg (by omega)
  have hsum : (N : ℚ) / D + 1 / 2 = ((2 * N + D : Int) : ℚ) / ((2 * D).toNat : ℚ) := by
    rw [← Int.cast_natCast, hden]
    push_cast
    field_simp
  rw [rhaz_of_nonneg (div_nonneg (Int.cast_nonneg hN) hDq.le), hsum, Rat.floor_intCast_div_natCast, hden]

/-- R82's integer form. -/
theorem rhaz_div (N : Int) {D : Int} (hD : 0 < D) :
    rhaz ((N : ℚ) / D) = N.sign * ((2 * |N| + D) / (2 * D)) := by
  rcases lt_trichotomy N 0 with h | rfl | h
  · have hodd : rhaz ((N : ℚ) / D) = -rhaz (((-N : Int) : ℚ) / D) := by
      rw [← rhaz_neg]
      push_cast
      rw [neg_div, neg_neg]
    rw [hodd, rhaz_div_of_nonneg (by omega) hD, Int.sign_eq_neg_one_of_neg h, abs_of_neg h, neg_one_mul]
  · simp
  · rw [rhaz_div_of_nonneg h.le hD, Int.sign_eq_one_of_pos h, abs_of_pos h, one_mul]

/-- The disallowed `floor(q + 1/2)` differs from `rhaz` exactly at the negative half-way points (R82). -/
theorem floor_ne_rhaz_iff (q : ℚ) : ⌊q + 1 / 2⌋ ≠ rhaz q ↔ q < 0 ∧ ∃ n : Int, q = n + 1 / 2 := by
  rcases le_or_gt 0 q with h | h
  · simp [rhaz_of_nonneg h, h.not_gt]
  · have hhalf : (∃ n : Int, q = n + 1 / 2) ↔ q + 1 / 2 ∈ Set.range ((↑) : Int → ℚ) := by
      constructor
      · rintro ⟨n, rfl⟩; exact ⟨n + 1, by push_cast; ring⟩
      · rintro ⟨m, hm⟩; exact ⟨m - 1, by push_cast; linarith⟩
    have hceil : ⌊q + 1 / 2⌋ = rhaz q ↔ ⌈q + 1 / 2⌉ = ⌊q + 1 / 2⌋ + 1 := by
      rw [rhaz_eq_ceil_sub_one h]; omega
    rw [ne_eq, hceil, Int.ceil_eq_floor_add_one_iff_notMem, not_not, hhalf]
    exact (and_iff_right h).symm

/-- Adding 1/2 and truncating gives one more than `rhaz` from -1/2 down (R82). -/
theorem trunc_add_half {q : ℚ} (h : q ≤ -1 / 2) : trunc (q + 1 / 2) = rhaz q + 1 := by
  rw [trunc_of_nonpos (by linarith), rhaz_eq_ceil_sub_one (by linarith), sub_add_cancel]

/-- Settles O50: below zero `rhaz` is the ceiling of `q + 1/2` less one, from which both forbidden methods differ. -/
theorem rhazRoundsHalfAwayFromZero : Obligations.RhazRoundsHalfAwayFromZero := by
  refine ⟨fun q => rhaz_of_nonneg, fun q => rhaz_of_neg, rhaz_neg, fun N D => rhaz_div N, floor_ne_rhaz_iff,
    fun q h => ?_, ?_⟩
  · rw [trunc_add_half h]; omega
  · decide +kernel

/-- A number that is not negative: `rhaz` is nearest, and the greater of two nearest integers. -/
theorem rhaz_nearest_of_nonneg {q : ℚ} (h : 0 ≤ q) :
    |(rhaz q : ℚ) - q| ≤ 1 / 2 ∧ ∀ n : Int, |(n : ℚ) - q| ≤ 1 / 2 → n ≠ rhaz q → |n| < |rhaz q| := by
  have hle := Int.floor_le (q + 1 / 2)
  have hlt := Int.lt_floor_add_one (q + 1 / 2)
  rw [rhaz_of_nonneg h]
  refine ⟨abs_le.2 ⟨by linarith, by linarith⟩, fun n hn hne => ?_⟩
  obtain ⟨hlo, hhi⟩ := abs_le.1 hn
  have hmax : n ≤ ⌊q + 1 / 2⌋ := Int.le_floor.2 (by linarith)
  have hpos : -1 < n := by exact_mod_cast (by linarith : (-1 : ℚ) < n)
  rw [abs_of_nonneg (by omega), abs_of_nonneg (by omega)]
  omega

/-- Settles O51: the negative numbers follow from the others by oddness. -/
theorem rhazIsNearest : Obligations.RhazIsNearest := by
  intro q
  rcases le_total 0 q with h | h
  · exact rhaz_nearest_of_nonneg h
  · obtain ⟨hnear, hfar⟩ := rhaz_nearest_of_nonneg (neg_nonneg.2 h)
    have hflip : ∀ x : ℚ, |-x - -q| = |x - q| := fun x => by rw [← abs_neg]; congr 1; ring
    rw [rhaz_neg, Int.cast_neg, hflip] at hnear
    refine ⟨hnear, fun n hn hne => ?_⟩
    have := hfar (-n) (by rw [Int.cast_neg, hflip]; exact hn) (by rw [rhaz_neg]; omega)
    rwa [abs_neg, rhaz_neg, abs_neg] at this

end Sys2Proof.Machine
end

section
/-! PROOFS. Binary32 operands (R80): a pattern and its three fields determine each other, a magnitude determines the
exponent and the fraction, and what follows for the divisor `1 + cg` (R85). -/

namespace Sys2Proof.Machine

/-! ### The fields of a pattern -/

/-- A number that is put together from a sign bit, an exponent and a fraction has them as its fields. -/
theorem fields_of_toNat {b : Word} {sg e f : Nat} (hs : sg < 2) (he : e < 256) (hf : f < 2 ^ 23)
    (h : b.toNat = sg * 2 ^ 31 + e * 2 ^ 23 + f) :
    b.msb = decide (sg = 1) ∧ expField b = e ∧ fracField b = f := by
  have hsum := toNat_eq_fields b
  have hexp := expField_lt b
  have hfrac := fracField_lt b
  cases hm : b.msb
  · rw [hm, if_neg (by decide)] at hsum
    obtain rfl : sg = 0 := by omega
    exact ⟨rfl, by omega, by omega⟩
  · rw [hm, if_pos rfl] at hsum
    obtain rfl : sg = 1 := by omega
    exact ⟨rfl, by omega, by omega⟩

/-- `(-1)^s` of R80, for a sign bit given as a number. -/
theorem signFactor_of_msb {b : Word} {sg : Nat} (hs : sg < 2) (h : b.msb = decide (sg = 1)) :
    signFactor b = (-1) ^ sg := by
  unfold signFactor
  interval_cases sg <;> simp [h]

/-- Settles O48: a number of this form has `sg`, `e` and `f` as its fields, and `fval` is defined from these. -/
theorem fvalOfPattern : Obligations.FvalOfPattern := by
  intro sg e f b hs he hf hb
  obtain ⟨hmsb, hexp, hfrac⟩ := fields_of_toNat hs he hf (b := b) (by rw [hb, BitVec.toNat_ofNat]; omega)
  have hsign := signFactor_of_msb hs hmsb
  unfold fval
  rw [hexp, hfrac, hsign, hmsb]
  refine ⟨fun h0 h1 => ?_, fun h0 h1 => ?_, fun h0 => ?_, fun h0 h1 => ?_⟩
  · rw [if_pos h0, if_pos h1]
    interval_cases sg <;> rfl
  · rw [if_pos h0, if_neg h1]
  · rw [if_neg (by omega), if_pos h0]
  · rw [if_neg (by omega), if_neg (by omega)]

/-! ### Magnitudes -/

/-- A greater exponent field gives a greater magnitude. -/
theorem magnitude_lt_of_expField_lt {a b : Word} (h : expField a < expField b) : magnitude a < magnitude b := by
  have hupper : magnitude a < 2 ^ 23 * 2 ^ expField a := by
    have hfrac := fracField_lt a
    unfold magnitude
    split
    · next h0 => simpa [h0] using hfrac
    · next h0 =>
      calc (2 ^ 23 + fracField a) * 2 ^ (expField a - 1)
          < 2 ^ 24 * 2 ^ (expField a - 1) := Nat.mul_lt_mul_of_pos_right (by omega) (by positivity)
        _ = 2 ^ 23 * 2 ^ expField a := by rw [← pow_add, ← pow_add]; congr 1; omega
  have hlower : 2 ^ 23 * 2 ^ (expField b - 1) ≤ magnitude b := by
    rw [magnitude, if_neg (by omega)]
    exact Nat.mul_le_mul_right _ (by omega)
  calc magnitude a < 2 ^ 23 * 2 ^ expField a := hupper
    _ ≤ 2 ^ 23 * 2 ^ (expField b - 1) := Nat.mul_le_mul_left _ (Nat.pow_le_pow_right (by decide) (by omega))
    _ ≤ magnitude b := hlower

/-- A magnitude determines the exponent and the fraction. -/
theorem fields_of_magnitude_eq {a b : Word} (h : magnitude a = magnitude b) :
    expField a = expField b ∧ fracField a = fracField b := by
  have hexp : expField a = expField b := by
    rcases lt_trichotomy (expField a) (expField b) with hlt | heq | hgt
    · exact absurd h (magnitude_lt_of_expField_lt hlt).ne
    · exact heq
    · exact absurd h (magnitude_lt_of_expField_lt hgt).ne'
  refine ⟨hexp, ?_⟩
  unfold magnitude at h
  rw [hexp] at h
  split at h
  · exact h
  · exact Nat.add_left_cancel (Nat.eq_of_mul_eq_mul_right (by positivity) h)

/-- A pattern of one sign and one magnitude is one pattern. -/
theorem eq_of_msb_of_magnitude {a b : Word} (hs : a.msb = b.msb) (hm : magnitude a = magnitude b) : a = b := by
  obtain ⟨hexp, hfrac⟩ := fields_of_magnitude_eq hm
  rw [← BitVec.toNat_inj, toNat_eq_fields a, toNat_eq_fields b, hs, hexp, hfrac]

/-- Only the two zeros have magnitude 0. -/
theorem eq_zero_of_magnitude {b : Word} (h : magnitude b = 0) : b = 0x00000000 ∨ b = 0x80000000 := by
  cases hs : b.msb
  · exact .inl (eq_of_msb_of_magnitude (by rw [hs]; decide) (by rw [h]; decide))
  · exact .inr (eq_of_msb_of_magnitude (by rw [hs]; decide) (by rw [h]; decide))

/-- The value of a finite pattern as an integer multiple of the smallest subnormal. -/
def signedMagnitude (b : Word) : Int := if b.msb then -(magnitude b : Int) else magnitude b

theorem fval_finite {b : Word} {q : ℚ} (h : fval b = .finite q) :
    q = signedMagnitude b * (2 : ℚ) ^ (-149 : Int) := by
  rw [fval_eq_magnitude (expField_of_fval h), FVal.finite.injEq] at h
  rw [← h, signFactor, signedMagnitude]
  split <;> simp

/-- Two patterns with the same signed magnitude are the same pattern or are the two zeros. -/
theorem eq_or_zeros_of_signedMagnitude {a b : Word} (h : signedMagnitude a = signedMagnitude b) :
    a = b ∨ magnitude a = 0 ∧ magnitude b = 0 := by
  unfold signedMagnitude at h
  cases ha : a.msb <;> cases hb : b.msb <;> simp only [ha, hb, if_true, if_false, Bool.false_eq_true] at h
  · exact .inl (eq_of_msb_of_magnitude (ha.trans hb.symm) (by omega))
  · exact .inr (by omega)
  · exact .inr (by omega)
  · exact .inl (eq_of_msb_of_magnitude (ha.trans hb.symm) (by omega))

/-- Settles O49: one value is one signed magnitude, and a magnitude determines exponent and fraction. -/
theorem fvalIsInjectiveButForZero : Obligations.FvalIsInjectiveButForZero := by
  intro a b q ha hb
  have hunit : (2 : ℚ) ^ (-149 : Int) ≠ 0 := by positivity
  have hsame : signedMagnitude a = signedMagnitude b := by
    exact_mod_cast mul_right_cancel₀ hunit ((fval_finite ha).symm.trans (fval_finite hb))
  refine (eq_or_zeros_of_signedMagnitude hsame).imp_right fun ⟨hza, hzb⟩ => ⟨?_, eq_zero_of_magnitude hza,
    eq_zero_of_magnitude hzb⟩
  rw [fval_finite ha, signedMagnitude, hza]
  simp

/-! ### The divisor `1 + cg` -/

/-- Settles O54: -1 is not zero, so by R80 it is the value of one pattern only. -/
theorem onePatternGivesZeroDivisor : Obligations.OnePatternGivesZeroDivisor := by
  intro b q hb
  have hone : fval 0xBF800000 = .finite (-1) := by decide +kernel
  constructor
  · intro hq
    obtain rfl : q = -1 := by linarith
    rcases fvalIsInjectiveButForZero b _ _ hb hone with heq | ⟨hzero, -⟩
    · exact heq
    · norm_num at hzero
  · rintro rfl
    obtain rfl : -1 = q := FVal.finite.inj (hone.symm.trans hb)
    norm_num

/-- The divisor is a dyadic number, over the denominator of the smallest subnormal. -/
theorem exists_divisor_eq {b : Word} {cg : ℚ} (h : fval b = .finite cg) : ∃ D : Int, 1 + cg = D / 2 ^ 149 := by
  refine ⟨2 ^ 149 + signedMagnitude b, ?_⟩
  rw [fval_finite h, zpow_neg, Int.cast_add, add_div, ← div_eq_mul_inv]
  norm_num

/-- Settles O55: 7 divides the denominator 133 of the constant factor, and neither 8192000 nor a power of two. -/
theorem noTiesInHighMultiplicative : Obligations.NoTiesInHighMultiplicative := by
  intro b cg n hb hd htie
  obtain ⟨D, hD⟩ := exists_divisor_eq hb
  rw [hD] at hd htie
  have hD0 : (D : ℚ) ≠ 0 := fun h0 => hd (by rw [h0, zero_div])
  have hcross : (8192000 * 2 ^ 150 : ℚ) = 133 * (D * (2 * n + 1)) := by
    simp only [gainRange, highRange] at htie
    field_simp at htie
    linarith
  have hint : (8192000 * 2 ^ 150 : Int) = 133 * (D * (2 * n + 1)) := by exact_mod_cast hcross
  omega

end Sys2Proof.Machine
end

section
/-! PROOFS. Coefficients (R85 to R87, R90): the range of every answer, reading one back from a register, and the corner
rows of the three functions. -/

namespace Sys2Proof.Machine

theorem fMult_mem_range {cgb : Word} {g : Gain} {n : Int} (h : fMult cgb g = .ok n) : -131072 ≤ n ∧ n ≤ 131071 := by
  obtain ⟨cg, -, -, -, hrange⟩ := fMultWith_eq_ok.1 h
  exact hrange

theorem fAdd_mem_range {cab cgb : Word} {g : Gain} {n : Int} (h : fAdd cab cgb g = .ok n) :
    -131072 ≤ n ∧ n ≤ 131071 := by
  obtain ⟨ca, cg, -, -, -, -, hrange⟩ := fAddWith_eq_ok.1 h
  exact hrange

/-- Settles O56: the guard bounds every answer, and both widths hold the guarded range. -/
theorem coefficientsFitAndReadBack : Obligations.CoefficientsFitAndReadBack := by
  intro cgb cab g n h
  obtain ⟨hlo, hhi⟩ : -131072 ≤ n ∧ n ≤ 131071 := h.elim fMult_mem_range fAdd_mem_range
  exact ⟨hlo, hhi, BitVec.toInt_ofInt_eq_self (by decide) (by omega) (by omega),
    BitVec.toInt_ofInt_eq_self (by decide) (by omega) (by omega)⟩

/-- The guard on the divisor comes before the product, whatever `ca` is (C3). -/
theorem fAddWith_of_divisor_zero {r : Config.Range} {cab cgb : Word} {ca cg : ℚ} (hca : fval cab = .finite ca)
    (hcg : fval cgb = .finite cg) (h : 1 + cg = 0) : fAddWith r cab cgb = .error .calibrationRangeError := by
  simp [fAddWith, hca, hcg, h]

theorem fval_of_zero {b : Word} (h : b = 0x00000000 ∨ b = 0x80000000) : fval b = .finite 0 := by
  rcases h with rfl | rfl <;> decide +kernel

/-- Settles O57: a zero `ca` makes the quotient 0, and the guard on the divisor comes first. -/
theorem zeroAdditiveGivesZero : Obligations.ZeroAdditiveGivesZero := by
  intro cab cgb g cg hzero hcg
  have hca := fval_of_zero hzero
  refine ⟨fun hne => fAddWith_eq_ok.2 ⟨0, cg, hca, hcg, fun h0 => hne (by linarith), ?_, by decide, by decide⟩,
    fun heq => fAddWith_of_divisor_zero hca hcg (by linarith)⟩
  rw [neg_zero, zero_mul, zero_div, rhaz_zero]

/-- Settles O53, by evaluating the rows. -/
theorem cornerCasesUnderHighConstants : Obligations.CornerCasesUnderHighConstants := by
  unfold Obligations.CornerCasesUnderHighConstants
  decide +kernel

end Sys2Proof.Machine
end

section
/-! PROOFS. Raw samples (R88, R89): the conversion as a function of the exact voltage, its range, monotonicity and
oddness, and that a sample keeps its value through a lane of a Transfer Word. -/

namespace Sys2Proof.Machine

/-! ### The conversion of a finite voltage -/

/-- What `F_v2r` answers for the finite voltage `v` under the full scale `fs` (R88). -/
def rawSample (fs v : ℚ) : Int :=
  if v ≥ fs then rawMax else if v ≤ -fs then rawMin else trunc (v * 8192 / fs)

theorem fV2rWith_of_finite {r : Config.Range} {vb : Word} {v : ℚ} (h : fval vb = .finite v) :
    fV2rWith r vb = .ok (rawSample r.ideal v) := by
  unfold fV2rWith rawSample fullScale
  rw [h]
  dsimp only
  split
  · rfl
  · split <;> rfl

section
variable {fs v w : ℚ}

theorem rawSample_of_ge (h : fs ≤ v) : rawSample fs v = 8191 := if_pos h

theorem rawSample_of_le (hfs : 0 < fs) (h : v ≤ -fs) : rawSample fs v = -8192 := by
  rw [rawSample, if_neg (by linarith), if_pos h]
  rfl

theorem rawSample_of_lt (h : |v| < fs) : rawSample fs v = trunc (v * 8192 / fs) := by
  obtain ⟨hlo, hhi⟩ := abs_lt.1 h
  rw [rawSample, if_neg hhi.not_ge, if_neg hlo.not_ge]

/-- A voltage is at or above full scale, at or below its negative, or inside. -/
theorem fullScale_cases (fs v : ℚ) : fs ≤ v ∨ v ≤ -fs ∨ |v| < fs := by
  rcases le_or_gt fs v with hge | hlt
  · exact .inl hge
  · exact .inr ((le_or_gt v (-fs)).imp_right fun hgt => abs_lt.2 ⟨hgt, hlt⟩)

/-- The linear branch does not reach the minimum: truncation brings no number below 8192 up to it. -/
theorem rawSample_of_lt_bounds (h : |v| < fs) : -8191 ≤ rawSample fs v ∧ rawSample fs v ≤ 8191 := by
  have hfs : 0 < fs := (abs_nonneg v).trans_lt h
  have hquot : |v * 8192 / fs| < 8192 := by
    rw [abs_div, abs_mul, abs_of_pos hfs, abs_of_pos (by norm_num : (0 : ℚ) < 8192), div_lt_iff₀ hfs]
    linarith
  have hint : |trunc (v * 8192 / fs)| < 8192 := by exact_mod_cast (abs_trunc _).1.trans_lt hquot
  rw [rawSample_of_lt h]
  rw [abs_lt] at hint
  omega

theorem rawSample_mem_range (hfs : 0 < fs) (v : ℚ) : -8192 ≤ rawSample fs v ∧ rawSample fs v ≤ 8191 := by
  rcases fullScale_cases fs v with h | h | h
  · rw [rawSample_of_ge h]; decide
  · rw [rawSample_of_le hfs h]; decide
  · have := rawSample_of_lt_bounds h; omega

theorem rawSample_mono (hfs : 0 < fs) (h : v ≤ w) : rawSample fs v ≤ rawSample fs w := by
  rcases fullScale_cases fs w with hw | hw | hw
  · rw [rawSample_of_ge hw]; exact (rawSample_mem_range hfs v).2
  · rw [rawSample_of_le hfs (h.trans hw), rawSample_of_le hfs hw]
  · rcases fullScale_cases fs v with hv | hv | hv
    · exact absurd (hv.trans h) (abs_lt.1 hw).2.not_ge
    · rw [rawSample_of_le hfs hv]; exact (rawSample_mem_range hfs w).1
    · rw [rawSample_of_lt hv, rawSample_of_lt hw]
      exact trunc_mono (by gcongr)

theorem le_neg_of_rawSample_eq_min (h : rawSample fs v = -8192) : v ≤ -fs := by
  rcases fullScale_cases fs v with hv | hv | hv
  · rw [rawSample_of_ge hv] at h; omega
  · exact hv
  · have := rawSample_of_lt_bounds hv; omega

theorem rawSample_neg (h : |v| < fs) : rawSample fs (-v) = -rawSample fs v := by
  rw [rawSample_of_lt h, rawSample_of_lt (by rwa [abs_neg]), ← trunc_neg, neg_mul, neg_div]

end

theorem fV2r_of_finite {vb : Word} {g : Gain} {v : ℚ} {n : Int} (hv : fval vb = .finite v) (h : fV2r vb g = .ok n) :
    n = rawSample (gainRange g).ideal v :=
  (Except.ok.inj ((fV2rWith_of_finite hv).symm.trans h)).symm

/-- Settles O58: both answers are `rawSample` of their voltages. -/
theorem v2rIsMonotonicAndOdd : Obligations.V2rIsMonotonicAndOdd := by
  intro a b g p q n m ha hb hn hm
  have hfs := (gainRange g).ideal_pos
  rw [fV2r_of_finite ha hn, fV2r_of_finite hb hm]
  obtain ⟨hlo, hhi⟩ := rawSample_mem_range hfs p
  exact ⟨rawSample_mono hfs, hlo, hhi, le_neg_of_rawSample_eq_min, fun hq hp => hq ▸ rawSample_neg hp⟩

/-! ### Packing a sample -/

/-- Every answer of V2R, an infinity's too, fits a lane (R88). -/
theorem fV2r_mem_range {vb : Word} {g : Gain} {n : Int} (h : fV2r vb g = .ok n) : -8192 ≤ n ∧ n ≤ 8191 := by
  rcases fval_cases vb with ⟨v, hv⟩ | hv | hv | hv
  · rw [fV2r_of_finite hv h]
    exact rawSample_mem_range (gainRange g).ideal_pos v
  · rw [fV2r, fV2rWith, hv] at h; cases h; decide
  · rw [fV2r, fV2rWith, hv] at h; cases h; decide
  · rw [fV2r, fV2rWith, hv] at h; cases h

/-- The lane of a packed value holds the value's low 14 bits (R123). -/
theorem unpack_packLane (c : Channel) (v : Word) : unpack c (packLane c v) = v.extractLsb' 0 14 := by
  have hlane : packLsb[c.val] ≤ 4 := by revert c; decide
  ext i hi
  have hword : packLsb[c.val] + i < 32 := by omega
  have hbit : i < 32 := by omega
  simp [unpack, packLane, hi, hbit, hword]

/-- The low 14 bits of a sample in `RESULT` are the sample as a 14-bit number (R89). -/
theorem extractLsb'_sext32 (n : Int) : (sext32 n).extractLsb' 0 14 = BitVec.ofInt 14 n := by
  rw [← BitVec.toNat_inj, BitVec.extractLsb'_toNat, sext32, BitVec.toNat_ofInt, BitVec.toNat_ofInt, Nat.shiftRight_zero]
  omega

/-- Settles O60: the lane holds the low 14 bits of `RESULT`, and a raw sample fits them. -/
theorem rawSampleSurvivesPacking : Obligations.RawSampleSurvivesPacking := by
  intro c vb g n h
  obtain ⟨hlo, hhi⟩ := fV2r_mem_range h
  rw [unpack_packLane, extractLsb'_sext32]
  exact BitVec.toInt_ofInt_eq_self (by decide) (by omega) (by omega)

end Sys2Proof.Machine
end

section
/-! PROOFS. Coefficient commands (R106, R107): when `F_mult` and `F_add` answer which error, what a command that ends in
one of their two errors leaves behind, and the statements about CMULT and CADD. -/

namespace Sys2Proof.Machine

/-! ### The two errors of a translation (R103, R141 to R143) -/

/-- Where only the two errors of a translation can be answered, what neither succeeds nor is unavailable is the range
error. -/
theorem eq_rangeError_of_ne {α : Type} {r : Except ErrorKind α} (hok : ∀ x, r ≠ .ok x)
    (hkinds : ∀ e, r = .error e → e = .calibrationUnavailable ∨ e = .calibrationRangeError)
    (hne : r ≠ .error .calibrationUnavailable) : r = .error .calibrationRangeError := by
  cases r with
  | ok x => exact absurd rfl (hok x)
  | error e =>
    obtain rfl | rfl := hkinds e rfl
    · exact absurd rfl hne
    · rfl

/-- `F_mult` is unavailable exactly on a pattern that is not finite (R85). -/
theorem fMultWith_eq_unavailable {r : Config.Range} {cgb : Word} :
    fMultWith r cgb = .error .calibrationUnavailable ↔ ∀ q, fval cgb ≠ .finite q := by
  unfold fMultWith
  cases fval cgb with
  | finite q => dsimp only; split <;> simp [guardCoef_eq_error]
  | posInf | negInf | nan => simp

/-- `F_add` is unavailable exactly if one of its patterns is not finite (R86). -/
theorem fAddWith_eq_unavailable {r : Config.Range} {cab cgb : Word} :
    fAddWith r cab cgb = .error .calibrationUnavailable ↔
      (∀ q, fval cab ≠ .finite q) ∨ ∀ q, fval cgb ≠ .finite q := by
  unfold fAddWith
  cases fval cab with
  | finite ca =>
    cases fval cgb with
    | finite cg => dsimp only; split <;> simp [guardCoef_eq_error]
    | posInf | negInf | nan => simp
  | posInf | negInf | nan => simp

/-- A zero divisor or a quotient out of range leaves `F_mult` of a finite `cg` without an answer (R85). -/
theorem fMultWith_ne_ok {r : Config.Range} {cgb : Word} {cg : ℚ} (hcg : fval cgb = .finite cg)
    (hbad : 1 + cg = 0 ∨ rhaz (r.ideal / r.real / (1 + cg) * 65536) < -131072 ∨
      131071 < rhaz (r.ideal / r.real / (1 + cg) * 65536)) (n : Int) : fMultWith r cgb ≠ .ok n := by
  intro h
  obtain ⟨q, hq, hd, hn, hlo, hhi⟩ := fMultWith_eq_ok.1 h
  obtain rfl : cg = q := FVal.finite.inj (hcg.symm.trans hq)
  rw [hn] at hbad
  rcases hbad with h0 | h1 | h2
  · exact hd h0
  · omega
  · omega

/-- The same of `F_add` of a finite `ca` and `cg` (R86). -/
theorem fAddWith_ne_ok {r : Config.Range} {cab cgb : Word} {ca cg : ℚ} (hca : fval cab = .finite ca)
    (hcg : fval cgb = .finite cg)
    (hbad : 1 + cg = 0 ∨ rhaz (-ca * 131072 / (r.real * (1 + cg))) < -131072 ∨
      131071 < rhaz (-ca * 131072 / (r.real * (1 + cg)))) (n : Int) : fAddWith r cab cgb ≠ .ok n := by
  intro h
  obtain ⟨p, q, hp, hq, hd, hn, hlo, hhi⟩ := fAddWith_eq_ok.1 h
  obtain rfl : ca = p := FVal.finite.inj (hca.symm.trans hp)
  obtain rfl : cg = q := FVal.finite.inj (hcg.symm.trans hq)
  rw [hn] at hbad
  rcases hbad with h0 | h1 | h2
  · exact hd h0
  · omega
  · omega

/-! ### The end of a command, in the numbers of R141 -/

theorem runCommand_of_unavailable {s : State} {f : Block → Except ErrorKind Block}
    (h : f s.block = .error .calibrationUnavailable) : runCommand s f = .next
      { s with
        block :=
          { s.block with lasterr := 1, errflags := s.block.errflags ||| 0x02, result := 0, rvalid := false } } := by
  rw [runCommand_eq, h, settle_error, raise_calibrationUnavailable]

theorem runCommand_of_rangeError {s : State} {f : Block → Except ErrorKind Block}
    (h : f s.block = .error .calibrationRangeError) : runCommand s f = .next
      { s with
        block :=
          { s.block with lasterr := 2, errflags := s.block.errflags ||| 0x04, result := 0, rvalid := false } } := by
  rw [runCommand_eq, h, settle_error, raise_calibrationRangeError]

/-- A command whose effect succeeds ends with it and with `LASTERR <- 0` (R140). -/
theorem exec_of_effect_ok {i : Instr} {s : State} {b : Block} (h : effect i s.block = .ok b) :
    exec i s = .next { s with block := { b with lasterr := 0 } } := by
  rw [exec_eq, h, settle_ok]

/-- With a legal channel, CMULT ends in an error of `F_mult` (R106). -/
theorem effect_cmult_error {ch : BitVec 8} {gsel : GainSel} {c : Channel} {b : Block} {e : ErrorKind}
    (hc : ch.toNat = c.val) (h : fMult b.opa (gselResolve gsel c b) = .error e) :
    effect (.cmult ch gsel) b = .error e :=
  bind_eq_error.2 (.inr ⟨c, channelOf_eq_ok.2 hc, bind_eq_error.2 (.inl h)⟩)

/-- With a legal channel, CADD ends in an error of `F_add` (R107). -/
theorem effect_cadd_error {ch : BitVec 8} {gsel : GainSel} {c : Channel} {b : Block} {e : ErrorKind}
    (hc : ch.toNat = c.val) (h : fAdd b.opa b.opb (gselResolve gsel c b) = .error e) :
    effect (.cadd ch gsel) b = .error e :=
  bind_eq_error.2 (.inr ⟨c, channelOf_eq_ok.2 hc, bind_eq_error.2 (.inl h)⟩)

/-! ### CMULT and CADD -/

/-- Settles O30: the hypotheses are those under which `F_mult` succeeds. -/
theorem cmultResult : Obligations.CmultResult := by
  intro s ch gsel c g cg n hc hg hcg hd hn hlo hhi
  subst hg
  exact exec_of_effect_ok (effect_cmult_ok.2
    ⟨c, hc, n, fMultWith_eq_ok.2 ⟨cg, hcg, hd, hn.symm, hlo, hhi⟩, rfl⟩)

/-- Settles O31: `F_mult` is unavailable off the finite patterns, and on them it can fail by range only. -/
theorem cmultErrors : Obligations.CmultErrors := by
  intro s ch gsel c g hc hg
  subst hg
  refine ⟨fun hnot => ?_, fun cg n hcg hn hbad => ?_⟩
  · exact runCommand_of_unavailable (effect_cmult_error hc (fMultWith_eq_unavailable.2 hnot))
  · subst hn
    exact runCommand_of_rangeError (effect_cmult_error hc (eq_rangeError_of_ne (fMultWith_ne_ok hcg hbad)
      (fun _ => fMultWith_eq_error) fun h => fMultWith_eq_unavailable.1 h cg hcg))

/-- Settles O32: the hypotheses are those under which `F_add` succeeds. -/
theorem caddResult : Obligations.CaddResult := by
  intro s ch gsel c g ca cg n hc hg hca hcg hd hn hlo hhi
  subst hg
  exact exec_of_effect_ok (effect_cadd_ok.2
    ⟨c, hc, n, fAddWith_eq_ok.2 ⟨ca, cg, hca, hcg, hd, hn.symm, hlo, hhi⟩, rfl⟩)

/-- Settles O33: `F_add` is unavailable unless both patterns are finite, and on those it can fail by range only. -/
theorem caddErrors : Obligations.CaddErrors := by
  intro s ch gsel c g hc hg
  subst hg
  refine ⟨fun hnot => ?_, fun ca cg n hca hcg hn hbad => ?_⟩
  · exact runCommand_of_unavailable (effect_cadd_error hc (fAddWith_eq_unavailable.2 hnot))
  · subst hn
    exact runCommand_of_rangeError (effect_cadd_error hc (eq_rangeError_of_ne (fAddWith_ne_ok hca hcg hbad)
      (fun _ => fAddWith_eq_error) fun h =>
        (fAddWith_eq_unavailable.1 h).elim (fun hne => hne ca hca) fun hne => hne cg hcg))

end Sys2Proof.Machine
end

section
/-! PROOFS. The calibration record and its translation (R101 to R105): what SETCAL and CLRCAL deposit, when a pair
translates, and that XLTALL is the four XLT, whose order plays no part. -/

namespace Sys2Proof.Machine

open Sys2Proof.Safety

/-! ### The record -/

theorem get_set_pair_self {α : Type} (v : Vector α 4) (k : Pair) (x : α) : (v.set k x)[k] = x := by
  rw [get_set_pair, if_pos rfl]

theorem get_set_pair_of_ne {α : Type} {j k : Pair} (h : j ≠ k) (v : Vector α 4) (x : α) :
    (v.set k x)[j] = v[j] := by
  rw [get_set_pair, if_neg h]

/-- A pair index `2*ch` or `2*ch + 1` belongs to a legal channel and the gain the selector names. -/
theorem exists_named_pairIndex {ch : BitVec 8} {gsel : GainSel} {k : Pair}
    (h : gsel = .low ∧ k.val = 2 * ch.toNat ∨ gsel = .high ∧ k.val = 2 * ch.toNat + 1) :
    ∃ (g : Gain) (c : Channel), namedGain gsel = .ok g ∧ ch.toNat = c.val ∧ pairIndex c g = k := by
  have hch : ch.toNat < 2 := by omega
  obtain ⟨rfl, hk⟩ | ⟨rfl, hk⟩ := h
  · exact ⟨.low, ⟨ch.toNat, hch⟩, rfl, rfl, Fin.ext ((pairIndex_val _ _).trans hk.symm)⟩
  · exact ⟨.high, ⟨ch.toNat, hch⟩, rfl, rfl, Fin.ext ((pairIndex_val _ _).trans hk.symm)⟩

/-- Settles O38: SETCAL of a legal channel and a named gain ends with `putCal` of their pair. -/
theorem setcalEffect : Obligations.SetcalEffect := by
  intro s ch gsel k h
  obtain ⟨g, c, hg, hc, rfl⟩ := exists_named_pairIndex h
  exact ⟨_, exec_of_effect_ok (effect_setcal_ok.2 ⟨g, hg, c, hc, rfl⟩), rfl, get_set_pair_self _ _ _,
    get_set_pair_self _ _ _, get_set_pair_self _ _ _, get_set_pair_self _ _ _, fun j hj =>
      ⟨get_set_pair_of_ne hj _ _, get_set_pair_of_ne hj _ _, get_set_pair_of_ne hj _ _, get_set_pair_of_ne hj _ _⟩⟩

/-- Settles O39: every element of a cleared record reads empty. -/
theorem clrcalEffect : Obligations.ClrcalEffect := fun _ =>
  ⟨_, exec_of_effect_ok (i := .clrcal) rfl, rfl,
    fun k => ⟨get_words_zero k, get_words_zero k, get_flags_empty k, get_flags_empty k⟩⟩

/-! ### XLT (R103, R104) -/

/-- Settles O40: XLT of a pair that translates ends with `putCoef` of that pair. -/
theorem xltResult : Obligations.XltResult := by
  intro s ch gsel c g k m a hc hg hk hdef hm ha
  subst hg hk
  have hp : translatePair s.block (pairIndex c (gselResolve gsel c s.block)) = .ok (m, a) :=
    translatePair_eq_ok.2 ⟨hdef, by rwa [pairGain_pairIndex], by rwa [pairGain_pairIndex]⟩
  exact ⟨_, exec_of_effect_ok (effect_xlt_ok.2 ⟨c, hc, m, a, hp, rfl⟩), rfl, get_set_pair_self _ _ _,
    get_set_pair_self _ _ _, get_set_pair_self _ _ _, fun j hj =>
      ⟨get_set_pair_of_ne hj _ _, get_set_pair_of_ne hj _ _, get_set_pair_of_ne hj _ _⟩⟩

/-- A pair is unavailable exactly if its entry is undefined or one of its functions is unavailable (R103). -/
theorem translatePairIn_eq_unavailable {rs : Ranges} {b : Block} {k : Pair} :
    translatePairIn rs b k = .error .calibrationUnavailable ↔
      b.caldef[k] = false ∨ fMultWith (rs (pairGain k)) b.calCg[k] = .error .calibrationUnavailable ∨
        fAddWith (rs (pairGain k)) b.calCa[k] b.calCg[k] = .error .calibrationUnavailable := by
  unfold translatePairIn
  split
  · next hdef => exact iff_of_true rfl (.inl hdef)
  · next hdef =>
    dsimp only
    split
    · next hun => exact iff_of_true rfl (.inr hun)
    · next hun =>
      refine iff_of_false (fun h => hun ?_) (not_or.2 ⟨hdef, hun⟩)
      split at h
      · cases h
      · next hm => cases h; exact .inl hm
      · next ha => cases h; exact .inr ha

/-- The same over the entry itself: undefined, or a half that is not finite (R103). -/
theorem translatePairIn_eq_unavailable_iff_entry {rs : Ranges} {b : Block} {k : Pair} :
    translatePairIn rs b k = .error .calibrationUnavailable ↔
      b.caldef[k] = false ∨ (∀ q, fval b.calCg[k] ≠ .finite q) ∨ ∀ q, fval b.calCa[k] ≠ .finite q := by
  rw [translatePairIn_eq_unavailable, fMultWith_eq_unavailable, fAddWith_eq_unavailable]
  tauto

/-- A defined, finite entry with a zero divisor or a coefficient out of range ends in the range error (R103). -/
theorem translatePairIn_eq_rangeError {rs : Ranges} {b : Block} {k : Pair} {r : Config.Range} {cg ca : ℚ} {m a : Int}
    (hr : rs (pairGain k) = r) (hdef : b.caldef[k] = true) (hcg : fval b.calCg[k] = .finite cg)
    (hca : fval b.calCa[k] = .finite ca) (hm : m = rhaz (r.ideal / r.real / (1 + cg) * 65536))
    (ha : a = rhaz (-ca * 131072 / (r.real * (1 + cg))))
    (hbad : 1 + cg = 0 ∨ m < -131072 ∨ 131071 < m ∨ a < -131072 ∨ 131071 < a) :
    translatePairIn rs b k = .error .calibrationRangeError := by
  subst hr hm ha
  refine eq_rangeError_of_ne ?_ (fun _ => translatePairIn_eq_error) fun hun => ?_
  · rintro ⟨m', a'⟩ hok
    obtain ⟨-, hm, ha⟩ := translatePairIn_eq_ok.1 hok
    obtain h | h | h | h | h := hbad
    · exact fMultWith_ne_ok hcg (.inl h) m' hm
    · exact fMultWith_ne_ok hcg (.inr (.inl h)) m' hm
    · exact fMultWith_ne_ok hcg (.inr (.inr h)) m' hm
    · exact fAddWith_ne_ok hca hcg (.inr (.inl h)) a' ha
    · exact fAddWith_ne_ok hca hcg (.inr (.inr h)) a' ha
  · obtain h | h | h := translatePairIn_eq_unavailable_iff_entry.1 hun
    · rw [hdef] at h; cases h
    · exact h cg hcg
    · exact h ca hca

/-- With a legal channel, XLT ends in an error of its pair's translation (R104). -/
theorem effect_xlt_error {ch : BitVec 8} {gsel : GainSel} {c : Channel} {b : Block} {e : ErrorKind}
    (hc : ch.toNat = c.val) (h : translatePair b (pairIndex c (gselResolve gsel c b)) = .error e) :
    effect (.xlt ch gsel) b = .error e :=
  bind_eq_error.2 (.inr ⟨c, channelOf_eq_ok.2 hc, bind_eq_error.2 (.inl h)⟩)

/-- Settles O41: translation is unavailable off the defined, finite entries, and on them it can fail by range only. -/
theorem xltErrors : Obligations.XltErrors := by
  intro s ch gsel c g k hc hg hk
  subst hg hk
  refine ⟨fun hnot => ?_, fun cg ca m a hdef hcg hca hm ha hbad => ?_⟩
  · exact runCommand_of_unavailable (effect_xlt_error hc (translatePairIn_eq_unavailable_iff_entry.2 hnot))
  · have hr := congrArg gainRange (pairGain_pairIndex c (gselResolve gsel c s.block))
    exact runCommand_of_rangeError (effect_xlt_error hc
      (translatePairIn_eq_rangeError hr hdef hcg hca hm ha hbad))

/-! ### XLTALL (R105) -/

/-- What XLTALL writes where every pair `k` translates to `p k`. -/
def putAllCoefs (p : Pair → Int × Int) (b : Block) : Block :=
  putCoef 3 (p 3).1 (p 3).2 (putCoef 2 (p 2).1 (p 2).2 (putCoef 1 (p 1).1 (p 1).2 (putCoef 0 (p 0).1 (p 0).2 b)))

/-- XLTALL writes the coefficients of every pair. -/
theorem row_putAllCoefs (p : Pair → Int × Int) (b : Block) (k : Pair) : (putAllCoefs p b).row k =
    { b.row k with mult := coefField (p k).1, add := coefField (p k).2, valid := true } := by
  match k with
  | 0 | 1 | 2 | 3 => simp [putAllCoefs, row_putCoef]

/-- XLTALL writes coefficient registers and `COEFV` only. -/
theorem putAllCoefs_frame (p : Pair → Int × Int) (b : Block) : putAllCoefs p b =
    { b with
      coefMult := (putAllCoefs p b).coefMult
      coefAdd := (putAllCoefs p b).coefAdd
      coefv := (putAllCoefs p b).coefv } := rfl

theorem xltallOp_of_all_ok {rs : Ranges} {b : Block} {p : Pair → Int × Int}
    (h : ∀ k, translatePairIn rs b k = .ok (p k)) : xltallOp rs b = .ok (putAllCoefs p b) := by
  simp only [xltallOp, h, ok_bind, putAllCoefs]

/-- The lowest pair that does not translate reports, whatever is behind it. -/
theorem xltallOp_of_lowest_error {rs : Ranges} {b : Block} {k : Pair} {e : ErrorKind}
    (he : translatePairIn rs b k = .error e) (hlow : ∀ j < k, ∃ p, translatePairIn rs b j = .ok p) :
    xltallOp rs b = .error e := by
  match k with
  | 0 => simp only [xltallOp, he, error_bind]
  | 1 =>
    obtain ⟨p0, h0⟩ := hlow 0 (by decide)
    simp only [xltallOp, h0, he, ok_bind, error_bind]
  | 2 =>
    obtain ⟨p0, h0⟩ := hlow 0 (by decide)
    obtain ⟨p1, h1⟩ := hlow 1 (by decide)
    simp only [xltallOp, h0, h1, he, ok_bind, error_bind]
  | 3 =>
    obtain ⟨p0, h0⟩ := hlow 0 (by decide)
    obtain ⟨p1, h1⟩ := hlow 1 (by decide)
    obtain ⟨p2, h2⟩ := hlow 2 (by decide)
    simp only [xltallOp, h0, h1, h2, he, ok_bind, error_bind]

/-- `exec` runs XLTALL with the machine's own range constants. -/
theorem exec_xltall (s : State) : exec .xltall s = runCommand s (xltallOp gainRange) := rfl

/-- Settles O42: XLTALL ends with `putAllCoefs`, which writes the row of every pair. -/
theorem xltallResult : Obligations.XltallResult := by
  intro rs s m a h
  have hall : xltallOp rs s.block = .ok (putAllCoefs (fun k => (m k, a k)) s.block) :=
    xltallOp_of_all_ok fun k => translatePairIn_eq_ok.2 (h k)
  have hrun : runCommand s (xltallOp rs) =
      .next { s with block := { putAllCoefs (fun k => (m k, a k)) s.block with lasterr := 0 } } := by
    rw [runCommand_eq, hall, settle_ok]
  refine ⟨_, hrun, ?_, ?_, fun k => ?_⟩
  · rintro rfl; exact hrun
  · exact congrArg (fun b : Block => { s with block := { b with lasterr := 0 } }) (putAllCoefs_frame _ s.block)
  · have hrow := row_putAllCoefs (fun k => (m k, a k)) s.block k
    exact ⟨congrArg PairRow.mult hrow, congrArg PairRow.add hrow, congrArg PairRow.valid hrow⟩

/-- Settles O43: the lowest bad pair's error is XLTALL's, and a translation has two errors. -/
theorem xltallReportsLowestBadPair : Obligations.XltallReportsLowestBadPair := by
  intro rs s k e he hlow
  have hall : xltallOp rs s.block = .error e := xltallOp_of_lowest_error he hlow
  obtain rfl | rfl := translatePairIn_eq_error he
  · have hrun := runCommand_of_unavailable hall
    refine .inl ⟨rfl, hrun, ?_⟩
    rintro rfl; exact hrun
  · have hrun := runCommand_of_rangeError hall
    refine .inr ⟨rfl, hrun, ?_⟩
    rintro rfl; exact hrun

/-! ### XLTALL as four XLT (R105) -/

/-- What a completed XLT of pair `k` makes of the block, where every pair `k` translates to `p k`. -/
def afterXlt (p : Pair → Int × Int) (b : Block) (k : Pair) : Block :=
  { putCoef k (p k).1 (p k).2 b with lasterr := 0 }

/-- Two XLT end with the same block in either order: each pair has registers of its own. -/
theorem afterXlt_comm (p : Pair → Int × Int) (b : Block) (j k : Pair) :
    afterXlt p (afterXlt p b j) k = afterXlt p (afterXlt p b k) j := by
  rcases eq_or_ne j k with rfl | hne
  · rfl
  · have hval : j.val ≠ k.val := fun h => hne (Fin.ext h)
    simp [afterXlt, putCoef, Vector.set_comm _ _ hval]

/-- The four XLT in the order 0, 1, 2, 3 write what XLTALL writes. -/
theorem foldl_afterXlt_all (p : Pair → Int × Int) (b : Block) :
    [0, 1, 2, 3].foldl (afterXlt p) b = { putAllCoefs p b with lasterr := 0 } := rfl

/-- The pair that the `CH` and `GSEL` of an XLT with a named gain select. -/
def namedPair (x : BitVec 8 × GainSel) : Pair := Fin.ofNat 4 (2 * x.1.toNat + (gselCode x.2).toNat)

/-- The operands of an XLT are a legal channel and a named gain. -/
def IsNamed (x : BitVec 8 × GainSel) : Prop :=
  ∃ (c : Channel) (g : Gain), x.1.toNat = c.val ∧ namedGain x.2 = .ok g ∧ pairIndex c g = namedPair x

/-- The operands of the four XLT. -/
def xltOperands : List (BitVec 8 × GainSel) := [(0, .low), (0, .high), (1, .low), (1, .high)]

theorem isNamed_of_mem_xltOperands {x : BitVec 8 × GainSel} (h : x ∈ xltOperands) : IsNamed x := by
  simp only [xltOperands, List.mem_cons, List.not_mem_nil, or_false] at h
  obtain rfl | rfl | rfl | rfl := h
  · exact ⟨0, .low, rfl, rfl, rfl⟩
  · exact ⟨0, .high, rfl, rfl, rfl⟩
  · exact ⟨1, .low, rfl, rfl, rfl⟩
  · exact ⟨1, .high, rfl, rfl, rfl⟩

/-- Where every pair translates, an XLT completes with its own pair's values. -/
theorem settle_xltOp {rs : Ranges} {b : Block} {p : Pair → Int × Int} (h : ∀ k, translatePairIn rs b k = .ok (p k))
    {x : BitVec 8 × GainSel} (hx : IsNamed x) : settle b (xltOp rs x.1 x.2 b) = afterXlt p b (namedPair x) := by
  obtain ⟨c, g, hc, hg, hk⟩ := hx
  have hres := gselResolve_of_namedGain hg c b
  simp only [xltOp, channelOf_eq_ok.2 hc, hres, h, ok_bind, settle_ok, afterXlt, hk]

/-- XLT commands in sequence, where every pair translates: none disturbs the record that the later ones read. -/
theorem foldl_xltOp {rs : Ranges} {p : Pair → Int × Int} {order : List (BitVec 8 × GainSel)} :
    ∀ {b : Block}, (∀ k, translatePairIn rs b k = .ok (p k)) → (∀ x ∈ order, IsNamed x) →
      order.foldl (fun b x => settle b (xltOp rs x.1 x.2 b)) b = (order.map namedPair).foldl (afterXlt p) b := by
  induction order with
  | nil => intro b _ _; rfl
  | cons x order ih =>
    intro b h hnamed
    obtain ⟨hx, hrest⟩ := List.forall_mem_cons.1 hnamed
    rw [List.foldl_cons, settle_xltOp h hx]
    exact ih (b := afterXlt p b (namedPair x)) h hrest

/-- Commands in sequence, as a fold over the block. -/
theorem execAll_eq_foldl (is : List Instr) :
    ∀ s : State, execAll is s = .next { s with block := is.foldl (fun b i => settle b (effect i b)) s.block } := by
  induction is with
  | nil => intro s; rfl
  | cons i is ih => intro s; rw [execAll, exec_eq]; exact ih _

/-- Settles O44: the four XLT write their own pairs' values, so that any order is the order of XLTALL. -/
theorem xltallEqualsFourXlt : Obligations.XltallEqualsFourXlt := by
  intro rs s order hgood hperm
  choose p hp using hgood
  have hnamed : ∀ x ∈ order, IsNamed x := fun x hx => isNamed_of_mem_xltOperands (hperm.mem_iff.1 hx)
  have hpairs : (order.map namedPair).Perm [0, 1, 2, 3] := hperm.map namedPair
  have hfold : order.foldl (fun b x => settle b (xltOp rs x.1 x.2 b)) s.block = settle s.block (xltallOp rs s.block) :=
    calc _ = (order.map namedPair).foldl (afterXlt p) s.block := foldl_xltOp hp hnamed
      _ = [0, 1, 2, 3].foldl (afterXlt p) s.block :=
        hpairs.foldl_eq' (fun j _ k _ b => afterXlt_comm p b j k) s.block
      _ = settle s.block (xltallOp rs s.block) := by rw [foldl_afterXlt_all, xltallOp_of_all_ok hp, settle_ok]
  refine ⟨hfold, ?_⟩
  rintro rfl
  rw [execAll_eq_foldl, List.foldl_map, exec_xltall, runCommand_eq, ← hfold]
  rfl

end Sys2Proof.Machine
end

section
/-! PROOFS. Packing (R120, R121, R123): the Transfer Word as a number and by its bits, and that the commands which answer
in `RESULT` read nothing but their operands and the selected gain (R106, R107, R130). -/

namespace Sys2Proof.Machine

/-! ### The Transfer Word -/

/-- The Transfer Word as a number: the low 14 bits times the lane's power of two (R120). -/
theorem packLane_eq_ofNat (c : Channel) (v : Word) :
    packLane c v = BitVec.ofNat 32 (v.toNat % 2 ^ 14 * 2 ^ packLsb[c]) := by
  have hfield : v.toNat % 2 ^ 14 < 2 ^ 32 := by omega
  apply BitVec.eq_of_toNat_eq
  rw [packLane, BitVec.toNat_shiftLeft, BitVec.zeroExtend_eq_setWidth, BitVec.toNat_setWidth, BitVec.extractLsb'_toNat,
    Nat.shiftRight_zero, Nat.mod_eq_of_lt hfield, Nat.shiftLeft_eq, BitVec.toNat_ofNat]

/-- Settles O36: the two lanes are the entries of `PACK_LSB`. -/
theorem packResult : Obligations.PackResult := by
  intro s ch lsb h
  obtain ⟨c, hc, hlsb⟩ : ∃ c : Channel, ch.toNat = c.val ∧ packLsb[c] = lsb := by
    obtain ⟨rfl, rfl⟩ | ⟨rfl, rfl⟩ := h
    · exact ⟨0, rfl, rfl⟩
    · exact ⟨1, rfl, rfl⟩
  rw [exec_of_effect_ok (effect_pack_ok.2 ⟨c, hc, rfl⟩), packLane_eq_ofNat, hlsb]
  rfl

/-- A bit that is set in a Transfer Word stands in its channel's lane. -/
theorem lane_of_getLsbD_packLane {c : Channel} {v : Word} {n : Nat} (h : (packLane c v).getLsbD n = true) :
    packLsb[c] ≤ n ∧ n ≤ packLsb[c] + 13 := by
  rw [packLane, BitVec.getLsbD_shiftLeft, BitVec.zeroExtend_eq_setWidth, BitVec.getLsbD_setWidth,
    BitVec.getLsbD_extractLsb'] at h
  simp only [Bool.and_eq_true, Bool.not_eq_true', decide_eq_true_eq, decide_eq_false_iff_not] at h
  omega

/-- Settles O59: the lane holds the low 14 bits, and a set bit stands in it. -/
theorem packRoundTrip : Obligations.PackRoundTrip := by
  refine fun c v => ⟨unpack_packLane c v, fun n hn => ?_⟩
  have hlane := lane_of_getLsbD_packLane hn
  exact ⟨by rintro rfl; exact hlane, by rintro rfl; exact hlane⟩

/-! ### What a command that answers in `RESULT` reads -/

/-- Two commands, each in its own state, leave the same `RESULT`, `RVALID` and `LASTERR`. -/
def SameAnswer (s s' : State) (i i' : Instr) : Prop :=
  ∃ t t', exec i s = .next t ∧ exec i' s' = .next t' ∧
    t.block.result = t'.block.result ∧ t.block.rvalid = t'.block.rvalid ∧ t.block.lasterr = t'.block.lasterr

/-- Commands that put the outcome of one and the same computation in `RESULT`, or raise its error, answer the same. -/
theorem sameAnswer_of_effect_eq_bind {α : Type} {s s' : State} {i i' : Instr} (r : Except ErrorKind α) (w : α → Word)
    (h : effect i s.block = r >>= fun a => .ok (putResult (w a) s.block))
    (h' : effect i' s'.block = r >>= fun a => .ok (putResult (w a) s'.block)) : SameAnswer s s' i i' := by
  refine ⟨_, _, exec_eq i s, exec_eq i' s', ?_⟩
  rw [h, h']
  cases r with
  | ok a => simp
  | error e => simp

/-! With a legal channel, a coefficient or conversion command is its numeric function of the operands and the gain. -/

section
variable {ch : BitVec 8} {c : Channel} (hc : ch.toNat = c.val) (gsel : GainSel) (b : Block)
include hc

theorem effect_cmult_eq_bind : effect (.cmult ch gsel) b =
    fMult b.opa (gselResolve gsel c b) >>= fun n => .ok (putResult (sext32 n) b) :=
  congrArg (· >>= _) (channelOf_eq_ok.2 hc)

theorem effect_cadd_eq_bind : effect (.cadd ch gsel) b =
    fAdd b.opa b.opb (gselResolve gsel c b) >>= fun n => .ok (putResult (sext32 n) b) :=
  congrArg (· >>= _) (channelOf_eq_ok.2 hc)

theorem effect_v2r_eq_bind : effect (.v2r ch gsel) b =
    fV2r b.opa (gselResolve gsel c b) >>= fun n => .ok (putResult (sext32 n) b) :=
  congrArg (· >>= _) (channelOf_eq_ok.2 hc)

end

/-- Settles O47: in both states each command puts the same computation in `RESULT`. -/
theorem pureCommandsReadOnlyTheirOperands : Obligations.PureCommandsReadOnlyTheirOperands := by
  intro s s' hopa agree
  refine ⟨fun ch => ?_, fun ch ch' gsel gsel' c c' hc hc' hg => ⟨?_, ?_, fun hopb => ?_⟩⟩
  · exact sameAnswer_of_effect_eq_bind (fPack ch s.block.opa) id rfl (by rw [hopa]; rfl)
  · exact sameAnswer_of_effect_eq_bind _ sext32 (effect_cmult_eq_bind hc gsel s.block)
      (by rw [hopa, hg]; exact effect_cmult_eq_bind hc' gsel' s'.block)
  · exact sameAnswer_of_effect_eq_bind _ sext32 (effect_v2r_eq_bind hc gsel s.block)
      (by rw [hopa, hg]; exact effect_v2r_eq_bind hc' gsel' s'.block)
  · exact sameAnswer_of_effect_eq_bind _ sext32 (effect_cadd_eq_bind hc gsel s.block)
      (by rw [hopa, hopb, hg]; exact effect_cadd_eq_bind hc' gsel' s'.block)

end Sys2Proof.Machine
end

section
/-! PROOFS. The commands of 43_convert_gain.md (R130 to R132): what V2R answers for each kind of operand, what SETGAIN
writes, and that only NOP has no effect but `LASTERR <- 0`. -/

namespace Sys2Proof.Machine

/-! ### V2R (R130, R88) -/

theorem fV2r_of_posInf {vb : Word} {g : Gain} (h : fval vb = .posInf) : fV2r vb g = .ok 8191 := by
  rw [fV2r, fV2rWith, h]
  rfl

theorem fV2r_of_negInf {vb : Word} {g : Gain} (h : fval vb = .negInf) : fV2r vb g = .ok (-8192) := by
  rw [fV2r, fV2rWith, h]
  rfl

/-- `F_v2r` has an answer for every pattern but a NaN (R88). -/
theorem exists_fV2r_eq_ok {vb : Word} (h : fval vb ≠ .nan) (g : Gain) : ∃ n, fV2r vb g = .ok n := by
  cases hr : fV2r vb g with
  | ok n => exact ⟨n, rfl⟩
  | error e => exact absurd (fV2rWith_eq_error.1 hr).1 h

section
variable {s : State} {ch : BitVec 8} {gsel : GainSel} {c : Channel} (hc : ch.toNat = c.val)
include hc

/-- With a legal channel, V2R puts what `F_v2r` answers in `RESULT` (R130). -/
theorem exec_v2r_of_ok {n : Int} (h : fV2r s.block.opa (gselResolve gsel c s.block) = .ok n) :
    exec (.v2r ch gsel) s =
      .next { s with block := { s.block with result := BitVec.ofInt 32 n, rvalid := true, lasterr := 0 } } :=
  exec_of_effect_ok (effect_v2r_ok.2 ⟨c, hc, n, h, rfl⟩)

/-- With a legal channel, V2R ends in an error of `F_v2r` (R130). -/
theorem effect_v2r_error {b : Block} {e : ErrorKind} (h : fV2r b.opa (gselResolve gsel c b) = .error e) :
    effect (.v2r ch gsel) b = .error e :=
  bind_eq_error.2 (.inr ⟨c, channelOf_eq_ok.2 hc, bind_eq_error.2 (.inl h)⟩)

end

/-- Settles O34: a finite voltage gives `rawSample` of the full scale, which has a value in each of its three parts. -/
theorem v2rResult : Obligations.V2rResult := by
  intro s ch gsel c fs hc hfs
  have hpos : 0 < fs := hfs ▸ (gainRange _).ideal_pos
  refine ⟨fun h => exec_v2r_of_ok hc (fV2r_of_posInf h), fun h => exec_v2r_of_ok hc (fV2r_of_negInf h), fun v hv => ?_⟩
  have hsample : fV2r s.block.opa (gselResolve gsel c s.block) = .ok (rawSample fs v) :=
    hfs ▸ fV2rWith_of_finite hv
  refine ⟨fun hge => ?_, fun hle => ?_, fun hlo hhi => ?_⟩
  · exact exec_v2r_of_ok hc (hsample.trans (congrArg _ (rawSample_of_ge hge)))
  · exact exec_v2r_of_ok hc (hsample.trans (congrArg _ (rawSample_of_le hpos hle)))
  · exact exec_v2r_of_ok hc (hsample.trans (congrArg _ (rawSample_of_lt (abs_lt.2 ⟨hlo, hhi⟩))))

/-- Settles O35: a NaN is the one pattern for which `F_v2r` has no answer. -/
theorem v2rRaisesOnlyOnNan : Obligations.V2rRaisesOnlyOnNan := by
  intro s ch gsel c hc
  refine ⟨fun hnan => ?_, fun hne => ?_⟩
  · rw [exec_eq, effect_v2r_error hc (fV2rWith_eq_error.2 ⟨hnan, rfl⟩), settle_error, raise_invalidOperand]
  · obtain ⟨n, hn⟩ := exists_fV2r_eq_ok hne (gselResolve gsel c s.block)
    exact ⟨_, exec_v2r_of_ok hc hn, rfl⟩

/-! ### SETGAIN (R131) -/

/-- Settles O37: SETGAIN of a legal channel and a named gain ends with `putGain` of that channel. -/
theorem setgainEffect : Obligations.SetgainEffect := by
  intro s ch gsel c g hc hnames
  have hg : namedGain gsel = .ok g := by
    obtain ⟨rfl, rfl⟩ | ⟨rfl, rfl⟩ := hnames
    · rfl
    · rfl
  have hexec := exec_of_effect_ok (s := s) (effect_setgain_ok.2 ⟨g, hg, c, hc, rfl⟩)
  refine ⟨_, hexec, rfl, gain_of_exec_setgain hc hg hexec, fun d hd => ?_⟩
  exact (get_set_channel _ _ _ _).trans (if_neg hd)

/-! ### NOP (R132) -/

theorem exec_nop (s : State) : exec .nop s = .next { s with block := { s.block with lasterr := 0 } } := rfl

/-- Opcode 0 is NOP's, in format N (R62). -/
theorem decode_of_opcode_zero {w : Word} (h : w.toNat % 256 = 0) : decode w = formatN w .nop := by
  rw [decode, toNat_opField, h]
  rfl

/-- A word with opcode 0 that is not the word 0 has a reserved bit set (R63 step 2). -/
theorem decode_of_opcode_zero_of_ne {w : Word} (h : w.toNat % 256 = 0) (hne : w ≠ 0) :
    decode w = .error .reservedBits := by
  have hhigh : w.extractLsb' 8 24 ≠ 0 := by
    rw [Ne, extractLsb'_high_eq_zero (by decide)]
    intro hz
    exact hne (by bv_omega)
  rw [decode_of_opcode_zero h, formatN, if_neg hhigh]

/-- A block in which each command but NOP can be seen to act: no flag is set, `OPA` differs from the defined entries of
the record, and both channels have the gain `g`. -/
def readyBlock (g : Gain) : Block :=
  { Block.reset with opa := 1, gain := #v[g, g], caldef := #v[true, true, true, true] }

theorem gain_readyBlock (g : Gain) (c : Channel) : (readyBlock g).gain[c] = g := by
  match c with
  | 0 | 1 => rfl

theorem row_readyBlock (g : Gain) (k : Pair) : (readyBlock g).row k =
    { cg := 0, ca := 0, defined := true, mult := 0, add := 0, valid := false } := by
  match k with
  | 0 | 1 | 2 | 3 => rfl

/-- Every command but NOP, and but a SETGAIN that names the gain in force, changes an element of `readyBlock` other than
`LASTERR`: an error sets a flag, and a completed command writes an element of its own. -/
theorem settle_readyBlock_ne {i : Instr} {g : Gain} (hnop : i ≠ .nop)
    (hother : ∀ ch gsel, i = .setgain ch gsel → namedGain gsel ≠ .ok g) (code : BitVec 4) :
    settle (readyBlock g) (effect i (readyBlock g)) ≠ { readyBlock g with lasterr := code } := by
  intro hsame
  cases he : effect i (readyBlock g) with
  | error e =>
    rw [he, settle_error] at hsame
    have hflag : setErrflag (errorCode e) 0 = 0 := congrArg Block.errflags hsame
    revert hflag; cases e <;> decide
  | ok b =>
    rw [he, settle_ok] at hsame
    have hrow : ∀ k, b.row k = (readyBlock g).row k := fun k => (congrArg (Block.row · k) hsame :)
    simp only [row_readyBlock] at hrow
    cases effect_ok_cases he with
    | idle hi _ => exact hnop hi
    | result v _ h =>
      have hvalid : b.rvalid = false := congrArg Block.rvalid hsame
      rw [h, putResult_rvalid] at hvalid
      cases hvalid
    | gain ch gsel c g' hi _ hg h =>
      have hgain : b.gain[c] = (readyBlock g).gain[c] := (congrArg (fun b : Block => b.gain[c]) hsame :)
      rw [h, putGain_gain, get_set_channel, if_pos rfl, gain_readyBlock] at hgain
      exact hother ch gsel hi (hgain ▸ hg)
    | deposit ch gsel c g' _ _ _ h =>
      have hcg := congrArg PairRow.cg (hrow (pairIndex c g'))
      rw [h, row_putCal, if_pos rfl] at hcg
      exact absurd hcg (by decide : (1 : Word) ≠ 0)
    | clear _ h =>
      have hdefined := congrArg PairRow.defined (hrow 0)
      rw [h, row_clearCal] at hdefined
      cases hdefined
    | translate ch gsel c m a _ _ _ h =>
      have hvalid := congrArg PairRow.valid (hrow (pairIndex c (gselResolve gsel c (readyBlock g))))
      rw [h, row_putCoef, if_pos rfl] at hvalid
      cases hvalid
    | translateAll m a _ _ h =>
      have hvalid := congrArg PairRow.valid (hrow 3)
      rw [h, row_putCoef, if_pos rfl] at hvalid
      cases hvalid

/-- A command does not name both gains. -/
theorem exists_gain_not_named (i : Instr) : ∃ g, ∀ ch gsel, i = .setgain ch gsel → namedGain gsel ≠ .ok g := by
  by_cases hlow : ∃ ch, i = .setgain ch .low
  · obtain ⟨ch, rfl⟩ := hlow
    refine ⟨.high, ?_⟩
    rintro _ _ ⟨⟩
    decide
  · refine ⟨.low, ?_⟩
    rintro ch gsel rfl hg
    cases gsel with
    | low => exact hlow ⟨ch, rfl⟩
    | high | cur => cases hg

/-- Settles O29: the word 0 is the only NOP, and `readyBlock` shows the effect of every other command. -/
theorem nopOnlyClearsLasterr : Obligations.NopOnlyClearsLasterr := by
  refine ⟨fun s => ⟨exec_nop s, rfl⟩, fun w s hop hne => ?_, fun i hi => ?_⟩
  · have hdecode := decode_of_opcode_zero_of_ne hop hne
    exact ⟨hdecode, by rw [execWord, hdecode, raise_illegalCommand]⟩
  · obtain ⟨g, hg⟩ := exists_gain_not_named i
    exact ⟨{ State.reset with block := readyBlock g }, _, exec_eq i _, settle_readyBlock_ne hi hg _⟩

end Sys2Proof.Machine
end

section
/-! PROOFS. How a command ends (R144, R146, R147): with `LASTERR` 0 or with one error, `InvalidChannel` for a channel field
above 1, and in either case without regard to the error registers and the result it found. -/

namespace Sys2Proof.Machine

open Sys2Proof.Safety

/-! ### The two ends of a command (R146) -/

/-- The codes of the errors a command can end with (R141). -/
theorem errorCode_mem_of_raised {e : ErrorKind} (h : e ≠ .transferStartFailure ∧ e ≠ .deviceNotReady) :
    errorCode e ∈ ([1, 2, 3, 6, 7] : List (BitVec 4)) := by
  revert h; cases e <;> decide

/-- Settles O19: a command ends with its effect or with `raise`, and an illegal word with `raise`. -/
theorem commandCompletesOrRaisesOneError : Obligations.CommandCompletesOrRaisesOneError := by
  intro s endsWell
  have hraise : ∀ e, e ≠ .transferStartFailure ∧ e ≠ .deviceNotReady →
      endsWell (.next { s with block := raise e s.block }) :=
    fun e he => .inr ⟨errorCode e, errorCode_mem_of_raised he, rfl⟩
  have hexec : ∀ i, endsWell (exec i s) := by
    intro i
    rw [exec_eq]
    obtain ⟨b, he, hb⟩ | ⟨e, he, hb⟩ := settle_cases s.block (effect i s.block)
    · obtain ⟨-, -, hflags⟩ := effect_ok_frame he
      exact .inl ⟨_, rfl, by rw [hb], by rw [hb, hflags]⟩
    · rw [hb]
      exact hraise e (effect_error_kind he)
  refine ⟨hexec, fun w => ?_⟩
  unfold execWord
  cases decode w with
  | ok i => exact hexec i
  | error r => exact hraise .illegalCommand (by decide)

/-! ### The channel field (R144) -/

theorem exec_of_effect_invalidChannel {i : Instr} {s : State} (h : effect i s.block = .error .invalidChannel) :
    exec i s = .next
      { s with
        block :=
          { s.block with lasterr := 3, errflags := s.block.errflags ||| 0x08, result := 0, rvalid := false } } := by
  rw [exec_eq, h, settle_error, raise_invalidChannel]

/-- Settles O20: the channel field is the first thing that can fail, once SETGAIN and SETCAL have a gain named. -/
theorem channelOutOfRangeRaises : Obligations.ChannelOutOfRangeRaises := by
  intro s ch gsel hch
  have hc : channelOf ch = .error .invalidChannel := channelOf_eq_error.2 ⟨hch, rfl⟩
  have hpack : fPack ch s.block.opa = .error .invalidChannel := fPack_eq_error.2 ⟨hch, rfl⟩
  have hfirst : ∀ f : Channel → Except ErrorKind Block, (channelOf ch >>= f) = .error .invalidChannel :=
    fun _ => bind_eq_error.2 (.inl hc)
  refine ⟨exec_of_effect_invalidChannel (hfirst _), exec_of_effect_invalidChannel (hfirst _),
    exec_of_effect_invalidChannel (hfirst _), exec_of_effect_invalidChannel (bind_eq_error.2 (.inl hpack)),
    exec_of_effect_invalidChannel (hfirst _), fun hne => ?_⟩
  obtain ⟨g, hg⟩ := exists_namedGain hne
  exact ⟨exec_of_effect_invalidChannel (bind_eq_error.2 (.inr ⟨g, hg, hfirst _⟩)),
    exec_of_effect_invalidChannel (bind_eq_error.2 (.inr ⟨g, hg, hfirst _⟩))⟩

/-! ### Independence of past errors and results (R147) -/

/-- A block with other contents of the error registers and of the result registers. -/
def Block.withPast (b : Block) (e : BitVec 4) (f : BitVec 8) (r : Word) (v : Bool) : Block :=
  { b with lasterr := e, errflags := f, result := r, rvalid := v }

/-- A completed command keeps the past it found, but for `RESULT` and `RVALID` when it produces a result (R13). -/
def carryPast (i : Instr) (e : BitVec 4) (f : BitVec 8) (r : Word) (v : Bool) (b : Block) : Block :=
  if producesResult i then b.withPast e f b.result b.rvalid else b.withPast e f r v

section
variable (b : Block) (e : BitVec 4) (f : BitVec 8) (r : Word) (v : Bool)

theorem gselResolve_withPast (gsel : GainSel) (c : Channel) :
    gselResolve gsel c (b.withPast e f r v) = gselResolve gsel c b :=
  gselResolve_congr rfl gsel c

theorem translatePairIn_withPast (rs : Ranges) (k : Pair) :
    translatePairIn rs (b.withPast e f r v) k = translatePairIn rs b k :=
  translatePairIn_congr rfl rfl rfl rs k

/-- What a command makes of a block, or the error it ends with, is the same for every past of the block: no part of any
command reads it. -/
theorem effect_withPast (i : Instr) :
    effect i (b.withPast e f r v) = carryPast i e f r v <$> effect i b := by
  cases i with
  | nop | clrcal | pack => simp only [effect, nopOp, clrcalOp, packOp, map_bind]; rfl
  | cmult | cadd | v2r => simp only [effect, cmultOp, caddOp, v2rOp, map_bind, gselResolve_withPast]; rfl
  | setgain | setcal => simp only [effect, setgainOp, setcalOp, map_bind]; rfl
  | xlt | xltall =>
    simp only [effect, xltOp, xltallOp, map_bind, gselResolve_withPast, translatePairIn_withPast]; rfl

end

/-- Settles O23: the effect is the same for both pasts, so both commands complete or both raise the same error. -/
theorem pastErrorsDoNotAffectCommands : Obligations.PastErrorsDoNotAffectCommands := by
  intro i s t t' e f r v h h'
  change exec i { s with block := s.block.withPast e f r v } = .next t' at h'
  rw [exec_eq, effect_withPast] at h'
  obtain rfl := exec_next_iff.1 h
  obtain rfl := Host.Outcome.next.inj h'
  cases effect i s.block with
  | error k =>
    exact ⟨rfl, fun _ => ⟨rfl, rfl⟩, fun _ => ⟨rfl, rfl⟩, fun hzero => absurd hzero (errorCode_ne_zero k)⟩
  | ok b =>
    rw [Except.map_ok, settle_ok]
    cases hi : producesResult i with
    | true =>
      rw [carryPast, if_pos hi]
      exact ⟨rfl, fun hne => absurd rfl hne, fun _ => ⟨rfl, rfl⟩, fun _ hf => absurd hf (by decide)⟩
    | false =>
      rw [carryPast, if_neg (by simp [hi])]
      exact ⟨rfl, fun hne => absurd rfl hne, fun ht => absurd ht (by decide), fun _ _ => ⟨rfl, rfl⟩⟩

end Sys2Proof.Machine
end

section
/-! PROOFS. The reset input and the end of a run (R170, R179): what a pulse of the input makes of any machine, and that
a run takes every pending event and then stands still. -/

namespace Sys2Proof.Machine

/-! ### Quiescence (R179) -/

/-- With nothing pending, no run of any length changes anything. -/
theorem run_idle {s : State} (h : s.pending = []) (n : Nat) : Host.Core.run core n s = .next s := by
  induction n with
  | zero => rfl
  | succ n ih => rw [run_succ n (step_idle h), ih]

/-- As many steps as there are pending events take all of them: each step takes one, whatever the event is. -/
theorem run_takes_all {q : List HostEvent} :
    ∀ {s : State}, s.pending = q → ∃ t, Host.Core.run core q.length s = .next t ∧ t.pending = [] := by
  induction q with
  | nil => exact fun {s} hp => ⟨s, rfl, hp⟩
  | cons e rest ih =>
    intro s hp
    obtain ⟨u, hu, hup, -⟩ := step_requeue hp
    rw [List.length_cons, run_succ _ hu]
    exact ih hup

/-- Settles O18: the run takes the whole queue, and a machine with an empty queue stands still. -/
theorem everyPendingEventIsTaken : Obligations.EveryPendingEventIsTaken := by
  intro s
  obtain ⟨t, ht, hempty⟩ := run_takes_all (s := s) rfl
  exact ⟨t, ht, hempty, run_idle hempty⟩

/-! ### The reset input (R170) -/

/-- A machine held in reset: the reset state with the input asserted and `rest` still to arrive. -/
def heldInReset (rest : List HostEvent) : State := { State.reset with resetLine := true, pending := rest }

/-- The asserting edge brings any machine into reset. -/
theorem step_assertReset {s : State} {rest : List HostEvent} (hp : s.pending = .assertReset :: rest) :
    step s = .next (heldInReset rest) :=
  step_event hp

/-- The releasing edge leaves a machine held in reset at the reset state. -/
theorem step_heldInReset_release (rest : List HostEvent) :
    step (heldInReset (.releaseReset :: rest)) = .next { State.reset with pending := rest } := by
  rw [step_event rfl]
  rfl

/-- An access to a machine held in reset is turned away, and the block keeps its reset values. -/
theorem step_heldInReset_access {e : HostEvent} (he : e ≠ .assertReset ∧ e ≠ .releaseReset) (rest : List HostEvent) :
    step (heldInReset (e :: rest)) = .next (respond .notAccepted (heldInReset rest)) := by
  rw [step_event rfl]
  exact (Took.refusedInReset e (heldInReset rest) he rfl).takeEvent_eq

/-- Settles O10: the first edge brings the machine into reset, and what the second event does there does not depend on
the machine any more. -/
theorem resetPulseRestoresResetState : Obligations.ResetPulseRestoresResetState := by
  intro s rest
  refine ⟨fun hp => ?_, fun w off v e he hp => ?_⟩
  · rw [run_succ 1 (step_assertReset hp), run_succ 0 (step_heldInReset_release rest)]
    rfl
  · have haccess : e ≠ .assertReset ∧ e ≠ .releaseReset := by obtain rfl | rfl := he <;> simp
    rw [run_succ 1 (step_assertReset hp), run_succ 0 (step_heldInReset_access haccess rest)]
    rfl

end Sys2Proof.Machine
end
